-- ==== Sys2Proof/Word.lean ====
section
/-! DEFINITION. The words the block moves (spec/00_scope.md R8, R9): bytes, 16-bit and 32-bit unsigned
values, and byte arrays of a fixed size. -/

namespace Sys2Proof

/-- A byte: 8 bits (R11). -/
abbrev Byte := BitVec 8

/-- A 16-bit unsigned value: a `u16` field, the request code `op` (R9, R39). -/
abbrev Half := BitVec 16

/-- A 32-bit unsigned value: `len`, `pos`, `count`, a `u32` field, the word a MUID is carried in (R8, R9). -/
abbrev Word := BitVec 32

/-- `bytes[n]` (R39): a sequence of exactly `n` bytes. -/
abbrev Bytes (n : Nat) := Vector Byte n

end Sys2Proof
end

