-- ==== Sys2Proof/Syntax.lean ====
section
/-! DEFINITION. The instructions of the block: one constructor of `Instr` per legal request code, that is per
row of spec/opcode_table.json (R93, R109), each with the operands its rule gives it (R32, R33, R100); and the
request port's raw record, from which Decode.lean reads an instruction. -/

namespace Sys2Proof

/-- The 31 message kinds, in the row order of R96. -/
inductive Kind where
  | discovery
  | discoveryReply
  | invalidateMuid
  | ack
  | nak
  | initiateProtocolNegotiation
  | initiateProtocolNegotiationReply
  | setProtocolType
  | confirmProtocolType
  | confirmProtocolTypeReply
  | confirmProtocolTypeEstablished
  | profile
  | profileReply
  | profileEnabledReport
  | profileDisabledReport
  | profileAdded
  | profileRemoved
  | profileSpecificData
  | propertyExchangeCapabilities
  | propertyExchangeCapabilitiesReply
  | getPropertyData
  | getPropertyDataReply
  | setPropertyData
  | setPropertyDataReply
  | subscription
  | subscriptionReply
  | processCapabilities
  | processCapabilitiesReply
  | messageReport
  | messageReportReply
  | endOfMessageReport
  deriving DecidableEq, Repr

/-- The 31 kinds as a list, in the row order of R96. -/
def Kind.all : List Kind :=
  [.discovery, .discoveryReply, .invalidateMuid, .ack,
   .nak, .initiateProtocolNegotiation, .initiateProtocolNegotiationReply, .setProtocolType,
   .confirmProtocolType, .confirmProtocolTypeReply, .confirmProtocolTypeEstablished, .profile,
   .profileReply, .profileEnabledReport, .profileDisabledReport, .profileAdded,
   .profileRemoved, .profileSpecificData, .propertyExchangeCapabilities, .propertyExchangeCapabilitiesReply,
   .getPropertyData, .getPropertyDataReply, .setPropertyData, .setPropertyDataReply,
   .subscription, .subscriptionReply, .processCapabilities, .processCapabilitiesReply,
   .messageReport, .messageReportReply, .endOfMessageReport]

/-- The width `W` of a list's count field: `list8`, `list16`, `list32` (R39). -/
inductive CountWidth where
  | w8
  | w16
  | w32
  deriving DecidableEq, Repr

/-- The field types of R39. -/
inductive FieldType where
  | u8
  | u16
  | u32
  | bytes (n : Nat)
  | muid
  | list (w : CountWidth) (k : Nat)
  | pattern48
  deriving DecidableEq, Repr

/-- The names of the payload fields, as the layout rules give them. -/
inductive FieldName where
  | manufacturerId
  | deviceFamily
  | deviceFamilyModelNumber
  | softwareRevisionLevel
  | capability
  | maxSysexMessageSize
  | targetMuid
  | origTransaction
  | statusCode
  | statusData
  | details
  | message
  | authorityLevel
  | supportedProtocols
  | protocolType
  | testData
  | enabledProfiles
  | disabledProfiles
  | profile
  | channelCount
  | profileId
  | data
  | supportedCount
  | major
  | minor
  | requestId
  | headerData
  | chunkCount
  | nthChunk
  | propertyData
  | supportedFeatures
  | dataControl
  | systemMessages
  | otherMessages
  | channelControllerMessages
  | noteDataMessages
  deriving DecidableEq, Repr

/-- The value of a payload field. A `pattern48` field has no operand (R100): a put writes it as
`.pattern true`, a get reports `.pattern ok` for the result `x_ok` (R101). -/
inductive FieldValue where
  | u8 (v : Byte)
  | u16 (v : Half)
  | u32 (v : Word)
  | bytes (bs : List Byte)
  | muid (m : Word)
  | records (w : CountWidth) (rs : List (List Byte))
  | pattern (ok : Bool)
  deriving DecidableEq, Repr

/-- The operands every put takes (R33). -/
structure Header where
  deviceId : Byte
  version : Byte
  source : Word
  deriving DecidableEq, Repr

/-- The `args` record of the request port (R32): one port per operand name of R33 and of the layout rules. A
put reads the operands its kind has (R100) and ignores the others. -/
structure Args where
  deviceId : Byte
  version : Byte
  source : Word
  destination : Word
  manufacturerId : Bytes 3
  deviceFamily : Half
  deviceFamilyModelNumber : Half
  softwareRevisionLevel : Bytes 4
  capability : Byte
  maxSysexMessageSize : Word
  targetMuid : Word
  origTransaction : Byte
  statusCode : Byte
  statusData : Byte
  details : Bytes 5
  message : List Byte
  authorityLevel : Byte
  supportedProtocols : List (Bytes 5)
  protocolType : Bytes 5
  enabledProfiles : List (Bytes 5)
  disabledProfiles : List (Bytes 5)
  profile : Bytes 5
  channelCount : Half
  profileId : Bytes 5
  data : List Byte
  supportedCount : Byte
  major : Byte
  minor : Byte
  requestId : Byte
  headerData : List Byte
  chunkCount : Half
  nthChunk : Half
  propertyData : List Byte
  supportedFeatures : Byte
  dataControl : Byte
  systemMessages : Byte
  otherMessages : Byte
  channelControllerMessages : Byte
  noteDataMessages : Byte
  deriving DecidableEq, Repr

/-- `args` with every port at zero and every list empty. -/
def Args.zero : Args :=
  { deviceId := 0, version := 0, source := 0, destination := 0,
    manufacturerId := .replicate 3 0,
    deviceFamily := 0,
    deviceFamilyModelNumber := 0,
    softwareRevisionLevel := .replicate 4 0,
    capability := 0,
    maxSysexMessageSize := 0,
    targetMuid := 0,
    origTransaction := 0,
    statusCode := 0,
    statusData := 0,
    details := .replicate 5 0,
    message := [],
    authorityLevel := 0,
    supportedProtocols := [],
    protocolType := .replicate 5 0,
    enabledProfiles := [],
    disabledProfiles := [],
    profile := .replicate 5 0,
    channelCount := 0,
    profileId := .replicate 5 0,
    data := [],
    supportedCount := 0,
    major := 0,
    minor := 0,
    requestId := 0,
    headerData := [],
    chunkCount := 0,
    nthChunk := 0,
    propertyData := [],
    supportedFeatures := 0,
    dataControl := 0,
    systemMessages := 0,
    otherMessages := 0,
    channelControllerMessages := 0,
    noteDataMessages := 0 }

/-- A request as the host drives it (R32). A field an operation does not use is ignored by it. -/
structure Request where
  op : Half
  len : Word
  pos : Word
  muid : Word
  args : Args
  deriving DecidableEq, Repr

/-- The request with code `op` and every operand at zero. -/
def Request.ofCode (op : Half) : Request :=
  { op := op, len := 0, pos := 0, muid := 0, args := Args.zero }

/-- One constructor per legal request code (R93), in the table's order. -/
inductive Instr where
  /-- `is_discovery`, `0x0070` (R203). -/
  | isDiscovery (len : Word)
  /-- `is_discovery_reply`, `0x0071` (R207). -/
  | isDiscoveryReply (len : Word)
  /-- `is_invalidate_muid`, `0x007E` (R211). -/
  | isInvalidateMuid (len : Word)
  /-- `is_ack`, `0x007D` (R215). -/
  | isAck (len : Word)
  /-- `is_nak`, `0x007F` (R219). -/
  | isNak (len : Word)
  /-- `is_initiate_protocol_negotiation`, `0x0010` (R253). -/
  | isInitiateProtocolNegotiation (len : Word)
  /-- `is_initiate_protocol_negotiation_reply`, `0x0011` (R257). -/
  | isInitiateProtocolNegotiationReply (len : Word)
  /-- `is_set_protocol_type`, `0x0012` (R261). -/
  | isSetProtocolType (len : Word)
  /-- `is_confirm_protocol_type`, `0x0013` (R274). -/
  | isConfirmProtocolType (len : Word)
  /-- `is_confirm_protocol_type_reply`, `0x0014` (R278). -/
  | isConfirmProtocolTypeReply (len : Word)
  /-- `is_confirm_protocol_type_established`, `0x0015` (R282). -/
  | isConfirmProtocolTypeEstablished (len : Word)
  /-- `is_profile`, `0x0020` (R303). -/
  | isProfile (len : Word)
  /-- `is_profile_reply`, `0x0021` (R307). -/
  | isProfileReply (len : Word)
  /-- `is_profile_enabled_report`, `0x0024` (R311). -/
  | isProfileEnabledReport (len : Word)
  /-- `is_profile_disabled_report`, `0x0025` (R315). -/
  | isProfileDisabledReport (len : Word)
  /-- `is_profile_added`, `0x0026` (R319). -/
  | isProfileAdded (len : Word)
  /-- `is_profile_removed`, `0x0027` (R323). -/
  | isProfileRemoved (len : Word)
  /-- `is_profile_specific_data`, `0x002F` (R327). -/
  | isProfileSpecificData (len : Word)
  /-- `is_property_exchange_capabilities`, `0x0030` (R363). -/
  | isPropertyExchangeCapabilities (len : Word)
  /-- `is_property_exchange_capabilities_reply`, `0x0031` (R367). -/
  | isPropertyExchangeCapabilitiesReply (len : Word)
  /-- `is_get_property_data`, `0x0034` (R371). -/
  | isGetPropertyData (len : Word)
  /-- `is_get_property_data_reply`, `0x0035` (R375). -/
  | isGetPropertyDataReply (len : Word)
  /-- `is_set_property_data`, `0x0036` (R379). -/
  | isSetPropertyData (len : Word)
  /-- `is_set_property_data_reply`, `0x0037` (R383). -/
  | isSetPropertyDataReply (len : Word)
  /-- `is_subscription`, `0x0038` (R387). -/
  | isSubscription (len : Word)
  /-- `is_subscription_reply`, `0x0039` (R391). -/
  | isSubscriptionReply (len : Word)
  /-- `is_process_capabilities`, `0x0040` (R443). -/
  | isProcessCapabilities (len : Word)
  /-- `is_process_capabilities_reply`, `0x0041` (R447). -/
  | isProcessCapabilitiesReply (len : Word)
  /-- `is_message_report`, `0x0042` (R451). -/
  | isMessageReport (len : Word)
  /-- `is_message_report_reply`, `0x0043` (R455). -/
  | isMessageReportReply (len : Word)
  /-- `is_end_of_message_report`, `0x0044` (R459). -/
  | isEndOfMessageReport (len : Word)
  /-- `get_discovery`, `0x0170` (R202). -/
  | getDiscovery (len : Word)
  /-- `get_discovery_reply`, `0x0171` (R206). -/
  | getDiscoveryReply (len : Word)
  /-- `get_invalidate_muid`, `0x017E` (R210). -/
  | getInvalidateMuid (len : Word)
  /-- `get_ack`, `0x017D` (R214). -/
  | getAck (len : Word)
  /-- `get_nak`, `0x017F` (R218). -/
  | getNak (len : Word)
  /-- `get_initiate_protocol_negotiation`, `0x0110` (R252). -/
  | getInitiateProtocolNegotiation (len : Word)
  /-- `get_initiate_protocol_negotiation_reply`, `0x0111` (R256). -/
  | getInitiateProtocolNegotiationReply (len : Word)
  /-- `get_set_protocol_type`, `0x0112` (R260). -/
  | getSetProtocolType (len : Word)
  /-- `get_confirm_protocol_type`, `0x0113` (R273). -/
  | getConfirmProtocolType (len : Word)
  /-- `get_confirm_protocol_type_reply`, `0x0114` (R277). -/
  | getConfirmProtocolTypeReply (len : Word)
  /-- `get_confirm_protocol_type_established`, `0x0115` (R281). -/
  | getConfirmProtocolTypeEstablished (len : Word)
  /-- `get_profile`, `0x0120` (R302). -/
  | getProfile (len : Word)
  /-- `get_profile_reply`, `0x0121` (R306). -/
  | getProfileReply (len : Word)
  /-- `get_profile_enabled_report`, `0x0124` (R310). -/
  | getProfileEnabledReport (len : Word)
  /-- `get_profile_disabled_report`, `0x0125` (R314). -/
  | getProfileDisabledReport (len : Word)
  /-- `get_profile_added`, `0x0126` (R318). -/
  | getProfileAdded (len : Word)
  /-- `get_profile_removed`, `0x0127` (R322). -/
  | getProfileRemoved (len : Word)
  /-- `get_profile_specific_data`, `0x012F` (R326). -/
  | getProfileSpecificData (len : Word)
  /-- `get_property_exchange_capabilities`, `0x0130` (R362). -/
  | getPropertyExchangeCapabilities (len : Word)
  /-- `get_property_exchange_capabilities_reply`, `0x0131` (R366). -/
  | getPropertyExchangeCapabilitiesReply (len : Word)
  /-- `get_get_property_data`, `0x0134` (R370). -/
  | getGetPropertyData (len : Word)
  /-- `get_get_property_data_reply`, `0x0135` (R374). -/
  | getGetPropertyDataReply (len : Word)
  /-- `get_set_property_data`, `0x0136` (R378). -/
  | getSetPropertyData (len : Word)
  /-- `get_set_property_data_reply`, `0x0137` (R382). -/
  | getSetPropertyDataReply (len : Word)
  /-- `get_subscription`, `0x0138` (R386). -/
  | getSubscription (len : Word)
  /-- `get_subscription_reply`, `0x0139` (R390). -/
  | getSubscriptionReply (len : Word)
  /-- `get_process_capabilities`, `0x0140` (R442). -/
  | getProcessCapabilities (len : Word)
  /-- `get_process_capabilities_reply`, `0x0141` (R446). -/
  | getProcessCapabilitiesReply (len : Word)
  /-- `get_message_report`, `0x0142` (R450). -/
  | getMessageReport (len : Word)
  /-- `get_message_report_reply`, `0x0143` (R454). -/
  | getMessageReportReply (len : Word)
  /-- `get_end_of_message_report`, `0x0144` (R458). -/
  | getEndOfMessageReport (len : Word)
  /-- `put_discovery`, `0x0270` (R201). -/
  | putDiscovery (len : Word) (hdr : Header) (manufacturerId : Bytes 3)
      (deviceFamily deviceFamilyModelNumber : Half) (softwareRevisionLevel : Bytes 4) (capability : Byte)
      (maxSysexMessageSize : Word)
  /-- `put_discovery_reply`, `0x0271` (R205). -/
  | putDiscoveryReply (len : Word) (hdr : Header) (destination : Word) (manufacturerId : Bytes 3)
      (deviceFamily deviceFamilyModelNumber : Half) (softwareRevisionLevel : Bytes 4) (capability : Byte)
      (maxSysexMessageSize : Word)
  /-- `put_invalidate_muid`, `0x027E` (R209). -/
  | putInvalidateMuid (len : Word) (hdr : Header) (targetMuid : Word)
  /-- `put_ack`, `0x027D` (R213). -/
  | putAck (len : Word) (hdr : Header) (destination : Word) (origTransaction statusCode statusData : Byte)
      (details : Bytes 5) (message : List Byte)
  /-- `put_nak`, `0x027F` (R217). -/
  | putNak (len : Word) (hdr : Header) (destination : Word)
  /-- `put_initiate_protocol_negotiation`, `0x0210` (R251). -/
  | putInitiateProtocolNegotiation (len : Word) (hdr : Header) (destination : Word) (authorityLevel : Byte)
      (supportedProtocols : List (Bytes 5))
  /-- `put_initiate_protocol_negotiation_reply`, `0x0211` (R255). -/
  | putInitiateProtocolNegotiationReply (len : Word) (hdr : Header) (destination : Word)
      (authorityLevel : Byte) (supportedProtocols : List (Bytes 5))
  /-- `put_set_protocol_type`, `0x0212` (R259). -/
  | putSetProtocolType (len : Word) (hdr : Header) (destination : Word) (authorityLevel : Byte)
      (protocolType : Bytes 5)
  /-- `put_confirm_protocol_type`, `0x0213` (R272). -/
  | putConfirmProtocolType (len : Word) (hdr : Header) (destination : Word) (authorityLevel : Byte)
  /-- `put_confirm_protocol_type_reply`, `0x0214` (R276). -/
  | putConfirmProtocolTypeReply (len : Word) (hdr : Header) (destination : Word) (authorityLevel : Byte)
  /-- `put_confirm_protocol_type_established`, `0x0215` (R280). -/
  | putConfirmProtocolTypeEstablished (len : Word) (hdr : Header) (destination : Word)
      (authorityLevel : Byte)
  /-- `put_profile`, `0x0220` (R301). -/
  | putProfile (len : Word) (hdr : Header) (destination : Word)
  /-- `put_profile_reply`, `0x0221` (R305). -/
  | putProfileReply (len : Word) (hdr : Header) (destination : Word)
      (enabledProfiles disabledProfiles : List (Bytes 5))
  /-- `put_profile_enabled_report`, `0x0224` (R309). -/
  | putProfileEnabledReport (len : Word) (hdr : Header) (profile : Bytes 5) (channelCount : Half)
  /-- `put_profile_disabled_report`, `0x0225` (R313). -/
  | putProfileDisabledReport (len : Word) (hdr : Header) (profile : Bytes 5) (channelCount : Half)
  /-- `put_profile_added`, `0x0226` (R317). -/
  | putProfileAdded (len : Word) (hdr : Header) (profile : Bytes 5)
  /-- `put_profile_removed`, `0x0227` (R321). -/
  | putProfileRemoved (len : Word) (hdr : Header) (profile : Bytes 5)
  /-- `put_profile_specific_data`, `0x022F` (R325). -/
  | putProfileSpecificData (len : Word) (hdr : Header) (destination : Word) (profileId : Bytes 5)
      (data : List Byte)
  /-- `put_property_exchange_capabilities`, `0x0230` (R361). -/
  | putPropertyExchangeCapabilities (len : Word) (hdr : Header) (destination : Word)
      (supportedCount major minor : Byte)
  /-- `put_property_exchange_capabilities_reply`, `0x0231` (R365). -/
  | putPropertyExchangeCapabilitiesReply (len : Word) (hdr : Header) (destination : Word)
      (supportedCount major minor : Byte)
  /-- `put_get_property_data`, `0x0234` (R369). -/
  | putGetPropertyData (len : Word) (hdr : Header) (destination : Word) (requestId : Byte)
      (headerData : List Byte) (chunkCount nthChunk : Half) (propertyData : List Byte)
  /-- `put_get_property_data_reply`, `0x0235` (R373). -/
  | putGetPropertyDataReply (len : Word) (hdr : Header) (destination : Word) (requestId : Byte)
      (headerData : List Byte) (chunkCount nthChunk : Half) (propertyData : List Byte)
  /-- `put_set_property_data`, `0x0236` (R377). -/
  | putSetPropertyData (len : Word) (hdr : Header) (destination : Word) (requestId : Byte)
      (headerData : List Byte) (chunkCount nthChunk : Half) (propertyData : List Byte)
  /-- `put_set_property_data_reply`, `0x0237` (R381). -/
  | putSetPropertyDataReply (len : Word) (hdr : Header) (destination : Word) (requestId : Byte)
      (headerData : List Byte) (chunkCount nthChunk : Half) (propertyData : List Byte)
  /-- `put_subscription`, `0x0238` (R385). -/
  | putSubscription (len : Word) (hdr : Header) (destination : Word) (requestId : Byte)
      (headerData : List Byte) (chunkCount nthChunk : Half) (propertyData : List Byte)
  /-- `put_subscription_reply`, `0x0239` (R389). -/
  | putSubscriptionReply (len : Word) (hdr : Header) (destination : Word) (requestId : Byte)
      (headerData : List Byte) (chunkCount nthChunk : Half) (propertyData : List Byte)
  /-- `put_process_capabilities`, `0x0240` (R441). -/
  | putProcessCapabilities (len : Word) (hdr : Header) (destination : Word)
  /-- `put_process_capabilities_reply`, `0x0241` (R445). -/
  | putProcessCapabilitiesReply (len : Word) (hdr : Header) (destination : Word) (supportedFeatures : Byte)
  /-- `put_message_report`, `0x0242` (R449). -/
  | putMessageReport (len : Word) (hdr : Header) (destination : Word)
      (dataControl systemMessages otherMessages channelControllerMessages noteDataMessages : Byte)
  /-- `put_message_report_reply`, `0x0243` (R453). -/
  | putMessageReportReply (len : Word) (hdr : Header) (destination : Word)
      (systemMessages otherMessages channelControllerMessages noteDataMessages : Byte)
  /-- `put_end_of_message_report`, `0x0244` (R457). -/
  | putEndOfMessageReport (len : Word) (hdr : Header) (destination : Word)
  /-- `generate_muid`, `0x0300` (R130). -/
  | generateMuid
  /-- `put_muid`, `0x0301` (R131). -/
  | putMuid (muid : Word)
  /-- `get_muid`, `0x0302` (R132). -/
  | getMuid
  /-- `put_muid_with_position`, `0x0303` (R133). -/
  | putMuidWithPosition (pos muid : Word)
  /-- `get_muid_with_position`, `0x0304` (R134). -/
  | getMuidWithPosition (pos : Word)
  deriving DecidableEq, Repr

end Sys2Proof
end

