-- ==== Sys2Proof/Decode.lean ====
section
/-! DEFINITION. The two encoding tables of spec/30_encoding.md: the Sub-ID#2 map (R96) and the request code
(R90 to R93); the decoder of a request, total on every request and rejecting by name; the encoder, written from
the same tables. A request code is a value on the request port, not bytes in memory (R30, R83), so no byte order
enters. -/

namespace Sys2Proof

/-- The Sub-ID#2 of each kind (R96). -/
def Kind.subId : Kind → Byte
  | .discovery => 0x70
  | .discoveryReply => 0x71
  | .invalidateMuid => 0x7E
  | .ack => 0x7D
  | .nak => 0x7F
  | .initiateProtocolNegotiation => 0x10
  | .initiateProtocolNegotiationReply => 0x11
  | .setProtocolType => 0x12
  | .confirmProtocolType => 0x13
  | .confirmProtocolTypeReply => 0x14
  | .confirmProtocolTypeEstablished => 0x15
  | .profile => 0x20
  | .profileReply => 0x21
  | .profileEnabledReport => 0x24
  | .profileDisabledReport => 0x25
  | .profileAdded => 0x26
  | .profileRemoved => 0x27
  | .profileSpecificData => 0x2F
  | .propertyExchangeCapabilities => 0x30
  | .propertyExchangeCapabilitiesReply => 0x31
  | .getPropertyData => 0x34
  | .getPropertyDataReply => 0x35
  | .setPropertyData => 0x36
  | .setPropertyDataReply => 0x37
  | .subscription => 0x38
  | .subscriptionReply => 0x39
  | .processCapabilities => 0x40
  | .processCapabilitiesReply => 0x41
  | .messageReport => 0x42
  | .messageReportReply => 0x43
  | .endOfMessageReport => 0x44

/-- The kind that owns a Sub-ID#2 value, if one does (R96, R97). -/
def Kind.ofSubId (b : Byte) : Option Kind :=
  Kind.all.find? fun k => k.subId == b

/-- The operation classes of R91. -/
inductive OpClass where
  | is
  | get
  | put
  | muid
  deriving DecidableEq, Repr

/-- The code of a class, bits 9:8 of `op` (R91). -/
def OpClass.code : OpClass → BitVec 2
  | .is => 0
  | .get => 1
  | .put => 2
  | .muid => 3

/-- The class that bits 9:8 of `op` name (R91). -/
def OpClass.ofCode (c : BitVec 2) : OpClass :=
  if c = 0 then .is else if c = 1 then .get else if c = 2 then .put else .muid

/-- Bits 15:10 of `op`, which must be 0 (R90). -/
def opRsv (op : Half) : BitVec 6 := op.extractLsb' 10 6

/-- Bits 9:8 of `op` (R90). -/
def opCls (op : Half) : BitVec 2 := op.extractLsb' 8 2

/-- Bits 7:0 of `op` (R90). -/
def opSel (op : Half) : Byte := op.extractLsb' 0 8

/-- `op = cls << 8 | sel` with `rsv = 0` (R90). -/
def opCode (c : OpClass) (sel : Byte) : Half :=
  ((c.code.setWidth 16) <<< 8) ||| sel.setWidth 16

/-- Why a request code is not one of the 98 legal ones (R93, R506). -/
inductive DecodeError where
  /-- `rsv` is not 0. -/
  | reservedBits
  /-- Class IS, GET or PUT with a Sub-ID#2 that no kind owns (R97). -/
  | reservedSubId
  /-- Class MUID with a selector above `0x04`. -/
  | reservedMuidSelector
  deriving DecidableEq, Repr

/-- The `is_<kind>` instruction of a kind. -/
def isOf (len : Word) : Kind → Instr
  | .discovery => .isDiscovery len
  | .discoveryReply => .isDiscoveryReply len
  | .invalidateMuid => .isInvalidateMuid len
  | .ack => .isAck len
  | .nak => .isNak len
  | .initiateProtocolNegotiation => .isInitiateProtocolNegotiation len
  | .initiateProtocolNegotiationReply => .isInitiateProtocolNegotiationReply len
  | .setProtocolType => .isSetProtocolType len
  | .confirmProtocolType => .isConfirmProtocolType len
  | .confirmProtocolTypeReply => .isConfirmProtocolTypeReply len
  | .confirmProtocolTypeEstablished => .isConfirmProtocolTypeEstablished len
  | .profile => .isProfile len
  | .profileReply => .isProfileReply len
  | .profileEnabledReport => .isProfileEnabledReport len
  | .profileDisabledReport => .isProfileDisabledReport len
  | .profileAdded => .isProfileAdded len
  | .profileRemoved => .isProfileRemoved len
  | .profileSpecificData => .isProfileSpecificData len
  | .propertyExchangeCapabilities => .isPropertyExchangeCapabilities len
  | .propertyExchangeCapabilitiesReply => .isPropertyExchangeCapabilitiesReply len
  | .getPropertyData => .isGetPropertyData len
  | .getPropertyDataReply => .isGetPropertyDataReply len
  | .setPropertyData => .isSetPropertyData len
  | .setPropertyDataReply => .isSetPropertyDataReply len
  | .subscription => .isSubscription len
  | .subscriptionReply => .isSubscriptionReply len
  | .processCapabilities => .isProcessCapabilities len
  | .processCapabilitiesReply => .isProcessCapabilitiesReply len
  | .messageReport => .isMessageReport len
  | .messageReportReply => .isMessageReportReply len
  | .endOfMessageReport => .isEndOfMessageReport len

/-- The `get_<kind>` instruction of a kind. -/
def getOf (len : Word) : Kind → Instr
  | .discovery => .getDiscovery len
  | .discoveryReply => .getDiscoveryReply len
  | .invalidateMuid => .getInvalidateMuid len
  | .ack => .getAck len
  | .nak => .getNak len
  | .initiateProtocolNegotiation => .getInitiateProtocolNegotiation len
  | .initiateProtocolNegotiationReply => .getInitiateProtocolNegotiationReply len
  | .setProtocolType => .getSetProtocolType len
  | .confirmProtocolType => .getConfirmProtocolType len
  | .confirmProtocolTypeReply => .getConfirmProtocolTypeReply len
  | .confirmProtocolTypeEstablished => .getConfirmProtocolTypeEstablished len
  | .profile => .getProfile len
  | .profileReply => .getProfileReply len
  | .profileEnabledReport => .getProfileEnabledReport len
  | .profileDisabledReport => .getProfileDisabledReport len
  | .profileAdded => .getProfileAdded len
  | .profileRemoved => .getProfileRemoved len
  | .profileSpecificData => .getProfileSpecificData len
  | .propertyExchangeCapabilities => .getPropertyExchangeCapabilities len
  | .propertyExchangeCapabilitiesReply => .getPropertyExchangeCapabilitiesReply len
  | .getPropertyData => .getGetPropertyData len
  | .getPropertyDataReply => .getGetPropertyDataReply len
  | .setPropertyData => .getSetPropertyData len
  | .setPropertyDataReply => .getSetPropertyDataReply len
  | .subscription => .getSubscription len
  | .subscriptionReply => .getSubscriptionReply len
  | .processCapabilities => .getProcessCapabilities len
  | .processCapabilitiesReply => .getProcessCapabilitiesReply len
  | .messageReport => .getMessageReport len
  | .messageReportReply => .getMessageReportReply len
  | .endOfMessageReport => .getEndOfMessageReport len

/-- The common operands of a put (R33). -/
def Args.header (a : Args) : Header :=
  { deviceId := a.deviceId, version := a.version, source := a.source }

/-- The `put_<kind>` instruction of a kind, with the operands R100 gives it. -/
def putOf (len : Word) (a : Args) : Kind → Instr
  | .discovery => .putDiscovery len a.header a.manufacturerId a.deviceFamily a.deviceFamilyModelNumber
      a.softwareRevisionLevel a.capability a.maxSysexMessageSize
  | .discoveryReply => .putDiscoveryReply len a.header a.destination a.manufacturerId a.deviceFamily
      a.deviceFamilyModelNumber a.softwareRevisionLevel a.capability a.maxSysexMessageSize
  | .invalidateMuid => .putInvalidateMuid len a.header a.targetMuid
  | .ack => .putAck len a.header a.destination a.origTransaction a.statusCode a.statusData a.details
      a.message
  | .nak => .putNak len a.header a.destination
  | .initiateProtocolNegotiation => .putInitiateProtocolNegotiation len a.header a.destination
      a.authorityLevel a.supportedProtocols
  | .initiateProtocolNegotiationReply => .putInitiateProtocolNegotiationReply len a.header a.destination
      a.authorityLevel a.supportedProtocols
  | .setProtocolType => .putSetProtocolType len a.header a.destination a.authorityLevel a.protocolType
  | .confirmProtocolType => .putConfirmProtocolType len a.header a.destination a.authorityLevel
  | .confirmProtocolTypeReply => .putConfirmProtocolTypeReply len a.header a.destination a.authorityLevel
  | .confirmProtocolTypeEstablished => .putConfirmProtocolTypeEstablished len a.header a.destination
      a.authorityLevel
  | .profile => .putProfile len a.header a.destination
  | .profileReply => .putProfileReply len a.header a.destination a.enabledProfiles a.disabledProfiles
  | .profileEnabledReport => .putProfileEnabledReport len a.header a.profile a.channelCount
  | .profileDisabledReport => .putProfileDisabledReport len a.header a.profile a.channelCount
  | .profileAdded => .putProfileAdded len a.header a.profile
  | .profileRemoved => .putProfileRemoved len a.header a.profile
  | .profileSpecificData => .putProfileSpecificData len a.header a.destination a.profileId a.data
  | .propertyExchangeCapabilities => .putPropertyExchangeCapabilities len a.header a.destination
      a.supportedCount a.major a.minor
  | .propertyExchangeCapabilitiesReply => .putPropertyExchangeCapabilitiesReply len a.header a.destination
      a.supportedCount a.major a.minor
  | .getPropertyData => .putGetPropertyData len a.header a.destination a.requestId a.headerData a.chunkCount
      a.nthChunk a.propertyData
  | .getPropertyDataReply => .putGetPropertyDataReply len a.header a.destination a.requestId a.headerData
      a.chunkCount a.nthChunk a.propertyData
  | .setPropertyData => .putSetPropertyData len a.header a.destination a.requestId a.headerData a.chunkCount
      a.nthChunk a.propertyData
  | .setPropertyDataReply => .putSetPropertyDataReply len a.header a.destination a.requestId a.headerData
      a.chunkCount a.nthChunk a.propertyData
  | .subscription => .putSubscription len a.header a.destination a.requestId a.headerData a.chunkCount
      a.nthChunk a.propertyData
  | .subscriptionReply => .putSubscriptionReply len a.header a.destination a.requestId a.headerData
      a.chunkCount a.nthChunk a.propertyData
  | .processCapabilities => .putProcessCapabilities len a.header a.destination
  | .processCapabilitiesReply => .putProcessCapabilitiesReply len a.header a.destination a.supportedFeatures
  | .messageReport => .putMessageReport len a.header a.destination a.dataControl a.systemMessages
      a.otherMessages a.channelControllerMessages a.noteDataMessages
  | .messageReportReply => .putMessageReportReply len a.header a.destination a.systemMessages
      a.otherMessages a.channelControllerMessages a.noteDataMessages
  | .endOfMessageReport => .putEndOfMessageReport len a.header a.destination

/-- The MUID instruction a selector names (R92). -/
def muidOf (r : Request) : Except DecodeError Instr :=
  if opSel r.op = 0x00 then .ok .generateMuid
  else if opSel r.op = 0x01 then .ok (.putMuid r.muid)
  else if opSel r.op = 0x02 then .ok .getMuid
  else if opSel r.op = 0x03 then .ok (.putMuidWithPosition r.pos r.muid)
  else if opSel r.op = 0x04 then .ok (.getMuidWithPosition r.pos)
  else .error .reservedMuidSelector

/-- A message instruction, if a kind owns the selector (R93, R97). -/
def messageOf (sel : Byte) (f : Kind → Instr) : Except DecodeError Instr :=
  match Kind.ofSubId sel with
  | some k => .ok (f k)
  | none => .error .reservedSubId

/-- Request decoding (R93): total, and every code outside the 98 legal ones is rejected by name. -/
def decode (r : Request) : Except DecodeError Instr :=
  if opRsv r.op = 0 then
    match OpClass.ofCode (opCls r.op) with
    | .is => messageOf (opSel r.op) (isOf r.len)
    | .get => messageOf (opSel r.op) (getOf r.len)
    | .put => messageOf (opSel r.op) (putOf r.len r.args)
    | .muid => muidOf r
  else .error .reservedBits

/-- The request of an `is_<kind>`: its code and `len`, every other port at zero. -/
def isRequest (k : Kind) (len : Word) : Request :=
  { Request.ofCode (opCode .is k.subId) with len := len }

/-- The request of a `get_<kind>`: its code and `len`, every other port at zero. -/
def getRequest (k : Kind) (len : Word) : Request :=
  { Request.ofCode (opCode .get k.subId) with len := len }

/-- The request of a `put_<kind>`: its code, `len`, and the operands of its record. -/
def putRequest (k : Kind) (len : Word) (hdr : Header) (rest : Args) : Request :=
  { Request.ofCode (opCode .put k.subId) with
    len := len
    args := { rest with deviceId := hdr.deviceId, version := hdr.version, source := hdr.source } }

/-- The request the host issues for an instruction: the code of R90 and R96 and the operands on their ports;
a port the operation does not use is at zero. -/
def encode : Instr → Request
  | .isDiscovery len => isRequest .discovery len
  | .isDiscoveryReply len => isRequest .discoveryReply len
  | .isInvalidateMuid len => isRequest .invalidateMuid len
  | .isAck len => isRequest .ack len
  | .isNak len => isRequest .nak len
  | .isInitiateProtocolNegotiation len => isRequest .initiateProtocolNegotiation len
  | .isInitiateProtocolNegotiationReply len => isRequest .initiateProtocolNegotiationReply len
  | .isSetProtocolType len => isRequest .setProtocolType len
  | .isConfirmProtocolType len => isRequest .confirmProtocolType len
  | .isConfirmProtocolTypeReply len => isRequest .confirmProtocolTypeReply len
  | .isConfirmProtocolTypeEstablished len => isRequest .confirmProtocolTypeEstablished len
  | .isProfile len => isRequest .profile len
  | .isProfileReply len => isRequest .profileReply len
  | .isProfileEnabledReport len => isRequest .profileEnabledReport len
  | .isProfileDisabledReport len => isRequest .profileDisabledReport len
  | .isProfileAdded len => isRequest .profileAdded len
  | .isProfileRemoved len => isRequest .profileRemoved len
  | .isProfileSpecificData len => isRequest .profileSpecificData len
  | .isPropertyExchangeCapabilities len => isRequest .propertyExchangeCapabilities len
  | .isPropertyExchangeCapabilitiesReply len => isRequest .propertyExchangeCapabilitiesReply len
  | .isGetPropertyData len => isRequest .getPropertyData len
  | .isGetPropertyDataReply len => isRequest .getPropertyDataReply len
  | .isSetPropertyData len => isRequest .setPropertyData len
  | .isSetPropertyDataReply len => isRequest .setPropertyDataReply len
  | .isSubscription len => isRequest .subscription len
  | .isSubscriptionReply len => isRequest .subscriptionReply len
  | .isProcessCapabilities len => isRequest .processCapabilities len
  | .isProcessCapabilitiesReply len => isRequest .processCapabilitiesReply len
  | .isMessageReport len => isRequest .messageReport len
  | .isMessageReportReply len => isRequest .messageReportReply len
  | .isEndOfMessageReport len => isRequest .endOfMessageReport len
  | .getDiscovery len => getRequest .discovery len
  | .getDiscoveryReply len => getRequest .discoveryReply len
  | .getInvalidateMuid len => getRequest .invalidateMuid len
  | .getAck len => getRequest .ack len
  | .getNak len => getRequest .nak len
  | .getInitiateProtocolNegotiation len => getRequest .initiateProtocolNegotiation len
  | .getInitiateProtocolNegotiationReply len => getRequest .initiateProtocolNegotiationReply len
  | .getSetProtocolType len => getRequest .setProtocolType len
  | .getConfirmProtocolType len => getRequest .confirmProtocolType len
  | .getConfirmProtocolTypeReply len => getRequest .confirmProtocolTypeReply len
  | .getConfirmProtocolTypeEstablished len => getRequest .confirmProtocolTypeEstablished len
  | .getProfile len => getRequest .profile len
  | .getProfileReply len => getRequest .profileReply len
  | .getProfileEnabledReport len => getRequest .profileEnabledReport len
  | .getProfileDisabledReport len => getRequest .profileDisabledReport len
  | .getProfileAdded len => getRequest .profileAdded len
  | .getProfileRemoved len => getRequest .profileRemoved len
  | .getProfileSpecificData len => getRequest .profileSpecificData len
  | .getPropertyExchangeCapabilities len => getRequest .propertyExchangeCapabilities len
  | .getPropertyExchangeCapabilitiesReply len => getRequest .propertyExchangeCapabilitiesReply len
  | .getGetPropertyData len => getRequest .getPropertyData len
  | .getGetPropertyDataReply len => getRequest .getPropertyDataReply len
  | .getSetPropertyData len => getRequest .setPropertyData len
  | .getSetPropertyDataReply len => getRequest .setPropertyDataReply len
  | .getSubscription len => getRequest .subscription len
  | .getSubscriptionReply len => getRequest .subscriptionReply len
  | .getProcessCapabilities len => getRequest .processCapabilities len
  | .getProcessCapabilitiesReply len => getRequest .processCapabilitiesReply len
  | .getMessageReport len => getRequest .messageReport len
  | .getMessageReportReply len => getRequest .messageReportReply len
  | .getEndOfMessageReport len => getRequest .endOfMessageReport len
  | .putDiscovery len hdr manufacturerId deviceFamily deviceFamilyModelNumber softwareRevisionLevel
      capability maxSysexMessageSize =>
      putRequest .discovery len hdr { Args.zero with
        manufacturerId := manufacturerId, deviceFamily := deviceFamily,
        deviceFamilyModelNumber := deviceFamilyModelNumber, softwareRevisionLevel := softwareRevisionLevel,
        capability := capability, maxSysexMessageSize := maxSysexMessageSize }
  | .putDiscoveryReply len hdr destination manufacturerId deviceFamily deviceFamilyModelNumber
      softwareRevisionLevel capability maxSysexMessageSize =>
      putRequest .discoveryReply len hdr { Args.zero with
        destination := destination, manufacturerId := manufacturerId, deviceFamily := deviceFamily,
        deviceFamilyModelNumber := deviceFamilyModelNumber, softwareRevisionLevel := softwareRevisionLevel,
        capability := capability, maxSysexMessageSize := maxSysexMessageSize }
  | .putInvalidateMuid len hdr targetMuid =>
      putRequest .invalidateMuid len hdr { Args.zero with
        targetMuid := targetMuid }
  | .putAck len hdr destination origTransaction statusCode statusData details message =>
      putRequest .ack len hdr { Args.zero with
        destination := destination, origTransaction := origTransaction, statusCode := statusCode,
        statusData := statusData, details := details, message := message }
  | .putNak len hdr destination =>
      putRequest .nak len hdr { Args.zero with
        destination := destination }
  | .putInitiateProtocolNegotiation len hdr destination authorityLevel supportedProtocols =>
      putRequest .initiateProtocolNegotiation len hdr { Args.zero with
        destination := destination, authorityLevel := authorityLevel,
        supportedProtocols := supportedProtocols }
  | .putInitiateProtocolNegotiationReply len hdr destination authorityLevel supportedProtocols =>
      putRequest .initiateProtocolNegotiationReply len hdr { Args.zero with
        destination := destination, authorityLevel := authorityLevel,
        supportedProtocols := supportedProtocols }
  | .putSetProtocolType len hdr destination authorityLevel protocolType =>
      putRequest .setProtocolType len hdr { Args.zero with
        destination := destination, authorityLevel := authorityLevel, protocolType := protocolType }
  | .putConfirmProtocolType len hdr destination authorityLevel =>
      putRequest .confirmProtocolType len hdr { Args.zero with
        destination := destination, authorityLevel := authorityLevel }
  | .putConfirmProtocolTypeReply len hdr destination authorityLevel =>
      putRequest .confirmProtocolTypeReply len hdr { Args.zero with
        destination := destination, authorityLevel := authorityLevel }
  | .putConfirmProtocolTypeEstablished len hdr destination authorityLevel =>
      putRequest .confirmProtocolTypeEstablished len hdr { Args.zero with
        destination := destination, authorityLevel := authorityLevel }
  | .putProfile len hdr destination =>
      putRequest .profile len hdr { Args.zero with
        destination := destination }
  | .putProfileReply len hdr destination enabledProfiles disabledProfiles =>
      putRequest .profileReply len hdr { Args.zero with
        destination := destination, enabledProfiles := enabledProfiles,
        disabledProfiles := disabledProfiles }
  | .putProfileEnabledReport len hdr profile channelCount =>
      putRequest .profileEnabledReport len hdr { Args.zero with
        profile := profile, channelCount := channelCount }
  | .putProfileDisabledReport len hdr profile channelCount =>
      putRequest .profileDisabledReport len hdr { Args.zero with
        profile := profile, channelCount := channelCount }
  | .putProfileAdded len hdr profile =>
      putRequest .profileAdded len hdr { Args.zero with
        profile := profile }
  | .putProfileRemoved len hdr profile =>
      putRequest .profileRemoved len hdr { Args.zero with
        profile := profile }
  | .putProfileSpecificData len hdr destination profileId data =>
      putRequest .profileSpecificData len hdr { Args.zero with
        destination := destination, profileId := profileId, data := data }
  | .putPropertyExchangeCapabilities len hdr destination supportedCount major minor =>
      putRequest .propertyExchangeCapabilities len hdr { Args.zero with
        destination := destination, supportedCount := supportedCount, major := major, minor := minor }
  | .putPropertyExchangeCapabilitiesReply len hdr destination supportedCount major minor =>
      putRequest .propertyExchangeCapabilitiesReply len hdr { Args.zero with
        destination := destination, supportedCount := supportedCount, major := major, minor := minor }
  | .putGetPropertyData len hdr destination requestId headerData chunkCount nthChunk propertyData =>
      putRequest .getPropertyData len hdr { Args.zero with
        destination := destination, requestId := requestId, headerData := headerData,
        chunkCount := chunkCount, nthChunk := nthChunk, propertyData := propertyData }
  | .putGetPropertyDataReply len hdr destination requestId headerData chunkCount nthChunk propertyData =>
      putRequest .getPropertyDataReply len hdr { Args.zero with
        destination := destination, requestId := requestId, headerData := headerData,
        chunkCount := chunkCount, nthChunk := nthChunk, propertyData := propertyData }
  | .putSetPropertyData len hdr destination requestId headerData chunkCount nthChunk propertyData =>
      putRequest .setPropertyData len hdr { Args.zero with
        destination := destination, requestId := requestId, headerData := headerData,
        chunkCount := chunkCount, nthChunk := nthChunk, propertyData := propertyData }
  | .putSetPropertyDataReply len hdr destination requestId headerData chunkCount nthChunk propertyData =>
      putRequest .setPropertyDataReply len hdr { Args.zero with
        destination := destination, requestId := requestId, headerData := headerData,
        chunkCount := chunkCount, nthChunk := nthChunk, propertyData := propertyData }
  | .putSubscription len hdr destination requestId headerData chunkCount nthChunk propertyData =>
      putRequest .subscription len hdr { Args.zero with
        destination := destination, requestId := requestId, headerData := headerData,
        chunkCount := chunkCount, nthChunk := nthChunk, propertyData := propertyData }
  | .putSubscriptionReply len hdr destination requestId headerData chunkCount nthChunk propertyData =>
      putRequest .subscriptionReply len hdr { Args.zero with
        destination := destination, requestId := requestId, headerData := headerData,
        chunkCount := chunkCount, nthChunk := nthChunk, propertyData := propertyData }
  | .putProcessCapabilities len hdr destination =>
      putRequest .processCapabilities len hdr { Args.zero with
        destination := destination }
  | .putProcessCapabilitiesReply len hdr destination supportedFeatures =>
      putRequest .processCapabilitiesReply len hdr { Args.zero with
        destination := destination, supportedFeatures := supportedFeatures }
  | .putMessageReport len hdr destination dataControl systemMessages otherMessages channelControllerMessages
      noteDataMessages =>
      putRequest .messageReport len hdr { Args.zero with
        destination := destination, dataControl := dataControl, systemMessages := systemMessages,
        otherMessages := otherMessages, channelControllerMessages := channelControllerMessages,
        noteDataMessages := noteDataMessages }
  | .putMessageReportReply len hdr destination systemMessages otherMessages channelControllerMessages
      noteDataMessages =>
      putRequest .messageReportReply len hdr { Args.zero with
        destination := destination, systemMessages := systemMessages, otherMessages := otherMessages,
        channelControllerMessages := channelControllerMessages, noteDataMessages := noteDataMessages }
  | .putEndOfMessageReport len hdr destination =>
      putRequest .endOfMessageReport len hdr { Args.zero with
        destination := destination }
  | .generateMuid => Request.ofCode (opCode .muid 0x00)
  | .putMuid muid => { Request.ofCode (opCode .muid 0x01) with muid := muid }
  | .getMuid => Request.ofCode (opCode .muid 0x02)
  | .putMuidWithPosition pos muid => { Request.ofCode (opCode .muid 0x03) with pos := pos, muid := muid }
  | .getMuidWithPosition pos => { Request.ofCode (opCode .muid 0x04) with pos := pos }

/-- The request whose code is the table word `w` of `nbits` bits; the table gives operands no bits, so every
operand port is at zero (log 10). -/
def tableRequest (nbits w : Nat) : Request :=
  Request.ofCode (BitVec.ofNat 16 (w % 2 ^ nbits))

/-- The instruction the decoder reads from a table word. -/
def decodeTableWord (nbits w : Nat) : Option Instr :=
  match decode (tableRequest nbits w) with
  | .ok i => some i
  | .error _ => none

end Sys2Proof
end

