-- ==== Sys2Proof/Config.lean ====
section
/-! DEFINITION. What the spec leaves open: the parameter `BUF_CAP` (R7, R43), the random source `RNG`
(R10, R38), the content of buffer bytes that nothing has written (R45, R551). -/

namespace Sys2Proof

/-- The parameter `BUF_CAP` of R7: a natural number with `8 <= BUF_CAP <= 2^32 - 4`. The two bounds travel
with the number, so that no state has a capacity the spec rules out. -/
structure BufCap where
  val : Nat
  lower : 8 ≤ val
  upper : val ≤ 2 ^ 32 - 4
  deriving DecidableEq, Repr

/-- The capacity `State.reset` has. DESIGN CHOICE (log 1, unsafe only for statements about `State.reset`
itself): R7 leaves `BUF_CAP` open; 64 is the value the spec's own test vectors use. -/
def Config.resetCap : BufCap := ⟨64, by decide, by decide⟩

/-- What a byte of the buffer reads as when the memory does not list its address. DESIGN CHOICE (log 2,
unsafe for runs from `State.reset`): R45 gives no content at reset. -/
def Config.unlistedByte : Byte := 0

/-- The random source (R10, R38): the `n`-th draw since reset, a value in `[0, 2^28)` and nothing more known
of it. A FREE VALUE (log 3): no body, so no proof can use a particular draw, nor that two draws differ. -/
opaque Config.draw : Nat → BitVec 28

end Sys2Proof
end

