-- ==== Sys2Proof/Machine/State.lean ====
section
/-! DEFINITION. Everything the spec gives the machine to hold (spec/10_state.md): the buffer memory with its
capacity, the response port, the model's fault mark, the host's steps still to be served, and the count of random
draws taken. The block has no register, no program counter, no mode and no trap state (R30, R31, R509, R513). -/

namespace Sys2Proof.Machine

/-- The buffer memory (R34), as the list of the bytes that differ from what an unlisted address reads as
(`Config.unlistedByte`), by rising address. -/
abbrev Memory := List Host.Cell

/-- The canonical form of a memory: addresses strictly rising, and no entry that an unlisted address would
read as anyway. Equal memories are then equal lists. -/
abbrev Memory.wf (m : Memory) : Prop :=
  m.Pairwise (fun c d => c.1 < d.1) ∧ ∀ c ∈ m, c.2 ≠ Config.unlistedByte

/-- The outcome codes of R501. Codes 5, 6 and 7 are never produced. -/
inductive Status where
  | ok
  | parseError
  | capacityError
  | overflowError
  | illegalRequest
  deriving DecidableEq, Repr

/-- The result record of a successful `get_<kind>` (R101): the common fields as read from the wire, and the
payload fields of the layout rule, named, in order. -/
structure Record where
  deviceId : Byte
  version : Byte
  source : Word
  destination : Word
  payload : List (FieldName × FieldValue)
  deriving DecidableEq, Repr

/-- The response port (R36). `none` is the spec's own state "holds no value" (R40, R45). -/
structure Response where
  status : Option Status
  count : Option Word
  flag : Option Bool
  muid : Option Word
  fields : Option Record
  deriving DecidableEq, Repr

/-- The response port after reset: no field holds a value (R45, R550). -/
def Response.unheld : Response :=
  { status := none, count := none, flag := none, muid := none, fields := none }

/-- The fields of the response port, as a host names them when it reads one (R36, R40). -/
inductive RspField where
  | status
  | count
  | flag
  | muid
  | fields
  deriving DecidableEq, Repr

/-- A step of the host (R556): a request issued to the block, a write of bytes into the buffer at consecutive
addresses, or (R40) a read of a response field. -/
inductive HostStep where
  | request (r : Request)
  | write (addr : Nat) (bytes : List Byte)
  | read (f : RspField)
  deriving DecidableEq, Repr

/-- The machine's state between two host steps. The group cursor (R37) does not exist here: it lives inside one
operation (R45; log 9). -/
structure State where
  /-- `BUF_CAP` (R7). A parameter: no step changes it (log 1). -/
  cap : BufCap
  /-- The buffer memory (R34). -/
  mem : Memory
  /-- The response port (R36). -/
  rsp : Response
  /-- The model fault mark (R507): set by an error, cleared by nothing. -/
  faultMark : Bool
  /-- The request port and the rest of the host's program, in program order (R32, R80, R556; log 4). -/
  pending : List HostStep
  /-- The model's own field (log 3): how many draws of the random source have been taken (R38). -/
  draws : Nat
  deriving DecidableEq, Repr

/-- Why a step stops. -/
inductive Fault where
  /-- The HOST writes a byte at an address at or above `BUF_CAP`, which does not exist (R34, R77). Raised by
  `hostWrite` alone; no request raises it. Safe: the model stops where the spec gives no effect (log 7). -/
  | hostWriteOutsideBuffer
  deriving DecidableEq, Repr

/-- Why an instruction has no meaning. -/
inductive Refusal where
  /-- The instruction has no meaning in this model yet. Raised by `exec`'s arms alone; safe. No arm raises it:
  every instruction has its meaning. -/
  | notModelled (mnemonic : String)
  deriving DecidableEq, Repr

/-- The state after reset (R45, R550), for a capacity and a buffer content: reset writes neither (R551), so both
are arguments. The response holds no value, the mark is clear, nothing is in progress. -/
def State.resetWith (cap : BufCap) (mem : Memory) : State :=
  { cap := cap, mem := mem, rsp := Response.unheld, faultMark := false, pending := [], draws := 0 }

/-- The machine right after reset, with the capacity and the buffer content the model names where the spec
leaves them open (log 1, log 2). -/
def State.reset : State := State.resetWith Config.resetCap []

end Sys2Proof.Machine
end

