-- ==== Sys2Proof/Machine/Flags.lean ====
section
/-! DEFINITION. The only status and flag state the block has is in the response (R41): the status codes, the
classifier's flag, and the whole response each outcome leaves (R40: every operation replaces all of it). -/

namespace Sys2Proof.Machine

/-- The 3-bit code of a status (R501). -/
def Status.code : Status → BitVec 3
  | .ok => 0
  | .parseError => 1
  | .capacityError => 2
  | .overflowError => 3
  | .illegalRequest => 4

/-- `HeaderMatches(K)` (R156): `rd` reads a byte of the buffer by address. Nothing is read when fewer than 8
bytes are valid. It decides `flag` for `is_<kind>` and is the header check of `get_<kind>` (C4, C14). -/
def headerMatches (k : Kind) (len : Nat) (rd : Nat → Byte) : Bool :=
  decide (8 ≤ len) && rd 3 == 0xF0 && rd 2 == 0x7E && rd 0 == 0x0D && rd 7 == k.subId

/-- A response with a status and no other field (R40). -/
def Response.ofStatus (st : Status) : Response := { Response.unheld with status := some st }

/-- The response of a successful put: `count = L` (R154). -/
def Response.put (count : Nat) : Response :=
  { Response.ofStatus .ok with count := some (BitVec.ofNat 32 count) }

/-- The response of a successful get: `count = L` and the fields (R157). -/
def Response.got (count : Nat) (r : Record) : Response :=
  { Response.ofStatus .ok with count := some (BitVec.ofNat 32 count), fields := some r }

/-- The response of a failed get: `count = 0` and no fields (R503). -/
def Response.parseFailed : Response := { Response.ofStatus .parseError with count := some 0 }

/-- The response of an `is_<kind>` (R156). -/
def Response.flagged (b : Bool) : Response := { Response.ofStatus .ok with flag := some b }

/-- The response of `generate_muid`, `get_muid` and `get_muid_with_position` (R130, R132, R134). -/
def Response.muidIs (m : Word) : Response := { Response.ofStatus .ok with muid := some m }

/-- Does a response field hold a value (R40)? -/
def Response.holds (r : Response) : RspField → Bool
  | .status => r.status.isSome
  | .count => r.count.isSome
  | .flag => r.flag.isSome
  | .muid => r.muid.isSome
  | .fields => r.fields.isSome

end Sys2Proof.Machine
end

