-- ==== Sys2Proof/Machine/Operands.lean ====
section
/-! DEFINITION. The operand forms and their wire form: the constants of R31, the MUID packing (R135, R136), the
multi-byte integers (R67, R103), the field types written (R151) and read (R155), the layout of every kind, the
header (R150), the length (R102) and the padding and terminator (R152, R153). Everything here is a function of
byte sequences in stream order; the buffer is in Ops.lean. -/

namespace Sys2Proof.Machine

/-- The broadcast MUID (R31). -/
def broadcastMuid : Word := 0x0FFFFFFF

/-- `TEST_PATTERN[i] = i` for `i in 0 .. 47` (R31, R270). -/
def testPattern : List Byte := (List.range 48).map (BitVec.ofNat 8)

/-- `W3` of R135: MUID bits 27:24 in bits 3:0, and bits 23, 15, 7 in bits 6, 5, 4. -/
def muidW3 (m : Word) : Byte :=
  (((m >>> 24) &&& 0x0F) ||| ((m &&& 0x800000) >>> 17) ||| ((m &&& 0x8000) >>> 10)
    ||| ((m &&& 0x80) >>> 3)).setWidth 8

/-- `W2` of R135. -/
def muidW2 (m : Word) : Byte := ((m >>> 16) &&& 0x7F).setWidth 8

/-- `W1` of R135. -/
def muidW1 (m : Word) : Byte := ((m >>> 8) &&& 0x7F).setWidth 8

/-- `W0` of R135. -/
def muidW0 (m : Word) : Byte := (m &&& 0x7F).setWidth 8

/-- `MuidWire(m)` (R135), in the order the bytes are written (R133). -/
def muidWire (m : Word) : List Byte := [muidW3 m, muidW2 m, muidW1 m, muidW0 m]

/-- `MuidFrom(W3, W2, W1, W0)` (R136): defined on any four bytes, bit 7 of each ignored. -/
def muidFrom (w3 w2 w1 w0 : Byte) : Word :=
  ((w3.setWidth 32 &&& 0x0F) <<< 24) ||| ((w3.setWidth 32 &&& 0x40) <<< 17)
    ||| ((w3.setWidth 32 &&& 0x20) <<< 10) ||| ((w3.setWidth 32 &&& 0x10) <<< 3)
    ||| ((w2.setWidth 32 &&& 0x7F) <<< 16) ||| ((w1.setWidth 32 &&& 0x7F) <<< 8)
    ||| (w0.setWidth 32 &&& 0x7F)

/-- A MUID operand in range (R39); one outside raises `OVERFLOW_ERROR` (R505). -/
def muidInRange (m : Word) : Bool := decide (m.toNat < 2 ^ 28)

/-- A `u16` in stream order, most significant byte first (R67). -/
def be16 (v : Half) : List Byte := [v.extractLsb' 8 8, v.extractLsb' 0 8]

/-- A `u32` in stream order, most significant byte first (R67). -/
def be32 (v : Word) : List Byte :=
  [v.extractLsb' 24 8, v.extractLsb' 16 8, v.extractLsb' 8 8, v.extractLsb' 0 8]

/-- `b0 << 8 | b1` (R103). -/
def ofBe16 (b0 b1 : Byte) : Half := (b0.setWidth 16 <<< 8) ||| b1.setWidth 16

/-- `b0 << 24 | b1 << 16 | b2 << 8 | b3` (R103). -/
def ofBe32 (b0 b1 b2 b3 : Byte) : Word :=
  (b0.setWidth 32 <<< 24) ||| (b1.setWidth 32 <<< 16) ||| (b2.setWidth 32 <<< 8) ||| b3.setWidth 32

/-- The number of bits of a list's count (R39). -/
def countBits : CountWidth → Nat
  | .w8 => 8
  | .w16 => 16
  | .w32 => 32

/-- `BE_W(c)` (R151): the count `c` as a `W`-bit integer, most significant byte first. -/
def beCount (w : CountWidth) (c : Nat) : List Byte :=
  match w with
  | .w8 => [BitVec.ofNat 8 c]
  | .w16 => be16 (BitVec.ofNat 16 c)
  | .w32 => be32 (BitVec.ofNat 32 c)

/-- A list operand of `k`-byte records, each as its bytes with element 0 first (R69). -/
def recordsOf {n : Nat} (rs : List (Bytes n)) : List (List Byte) := rs.map (fun r => r.toList)

/-- A list operand of single bytes: each byte is a record of one byte (R39). -/
def recordsOfBytes (bs : List Byte) : List (List Byte) := bs.map (fun b => [b])

/-- `EmitField` (R151): the stream bytes of a field's value. -/
def emitField : FieldValue → List Byte
  | .u8 v => [v]
  | .u16 v => be16 v
  | .u32 v => be32 v
  | .bytes bs => bs
  | .muid m => muidWire m
  | .records w rs => beCount w rs.length ++ rs.flatten
  | .pattern _ => testPattern

/-- The stream bytes of a payload, its fields one after the other with no gap (R151). -/
def emitFields (vs : List FieldValue) : List Byte := (vs.map emitField).flatten

/-- The operand range check of R154 step 1 for one payload operand. -/
def fieldInRange : FieldValue → Bool
  | .u8 _ => true
  | .u16 _ => true
  | .u32 _ => true
  | .bytes _ => true
  | .muid m => muidInRange m
  | .records w rs => decide (rs.length < 2 ^ countBits w)
  | .pattern _ => true

/-- `EmitHeader(K, a)` (R150): the 14 header bytes. A kind without a destination operand carries the
broadcast MUID. -/
def emitHeader (k : Kind) (h : Header) (destination : Option Word) : List Byte :=
  [0xF0, 0x7E, h.deviceId, 0x0D, k.subId, h.version] ++ muidWire h.source
    ++ muidWire (destination.getD broadcastMuid)

/-- `L = 4 * floor((q + 4) / 4)` (R102, R153). -/
def messageLength (q : Nat) : Nat := 4 * ((q + 4) / 4)

/-- The whole message in stream order: header and payload bytes `s`, zero padding, the terminator (R152,
R153). -/
def frameMessage (s : List Byte) : List Byte :=
  s ++ List.replicate (messageLength s.length - 1 - s.length) 0x00 ++ [0xF7]

/-- The payload fields of each kind, in order (the layout rules R200 to R456). -/
def layout : Kind → List (FieldName × FieldType)
  | .discovery =>
      [(.manufacturerId, .bytes 3), (.deviceFamily, .u16),
        (.deviceFamilyModelNumber, .u16), (.softwareRevisionLevel, .bytes 4), (.capability, .u8),
        (.maxSysexMessageSize, .u32)]
  | .discoveryReply =>
      [(.manufacturerId, .bytes 3), (.deviceFamily, .u16),
        (.deviceFamilyModelNumber, .u16), (.softwareRevisionLevel, .bytes 4), (.capability, .u8),
        (.maxSysexMessageSize, .u32)]
  | .invalidateMuid => [(.targetMuid, .muid)]
  | .ack =>
      [(.origTransaction, .u8), (.statusCode, .u8), (.statusData, .u8), (.details, .bytes 5),
        (.message, .list .w16 1)]
  | .nak => []
  | .initiateProtocolNegotiation => [(.authorityLevel, .u8), (.supportedProtocols, .list .w8 5)]
  | .initiateProtocolNegotiationReply => [(.authorityLevel, .u8), (.supportedProtocols, .list .w8 5)]
  | .setProtocolType => [(.authorityLevel, .u8), (.protocolType, .bytes 5)]
  | .confirmProtocolType => [(.authorityLevel, .u8), (.testData, .pattern48)]
  | .confirmProtocolTypeReply => [(.authorityLevel, .u8), (.testData, .pattern48)]
  | .confirmProtocolTypeEstablished => [(.authorityLevel, .u8)]
  | .profile => []
  | .profileReply => [(.enabledProfiles, .list .w16 5), (.disabledProfiles, .list .w16 5)]
  | .profileEnabledReport => [(.profile, .bytes 5), (.channelCount, .u16)]
  | .profileDisabledReport => [(.profile, .bytes 5), (.channelCount, .u16)]
  | .profileAdded => [(.profile, .bytes 5)]
  | .profileRemoved => [(.profile, .bytes 5)]
  | .profileSpecificData => [(.profileId, .bytes 5), (.data, .list .w32 1)]
  | .propertyExchangeCapabilities => [(.supportedCount, .u8), (.major, .u8), (.minor, .u8)]
  | .propertyExchangeCapabilitiesReply => [(.supportedCount, .u8), (.major, .u8), (.minor, .u8)]
  | .getPropertyData =>
      [(.requestId, .u8), (.headerData, .list .w16 1), (.chunkCount, .u16),
        (.nthChunk, .u16), (.propertyData, .list .w16 1)]
  | .getPropertyDataReply =>
      [(.requestId, .u8), (.headerData, .list .w16 1), (.chunkCount, .u16),
        (.nthChunk, .u16), (.propertyData, .list .w16 1)]
  | .setPropertyData =>
      [(.requestId, .u8), (.headerData, .list .w16 1), (.chunkCount, .u16),
        (.nthChunk, .u16), (.propertyData, .list .w16 1)]
  | .setPropertyDataReply =>
      [(.requestId, .u8), (.headerData, .list .w16 1), (.chunkCount, .u16),
        (.nthChunk, .u16), (.propertyData, .list .w16 1)]
  | .subscription =>
      [(.requestId, .u8), (.headerData, .list .w16 1), (.chunkCount, .u16),
        (.nthChunk, .u16), (.propertyData, .list .w16 1)]
  | .subscriptionReply =>
      [(.requestId, .u8), (.headerData, .list .w16 1), (.chunkCount, .u16),
        (.nthChunk, .u16), (.propertyData, .list .w16 1)]
  | .processCapabilities => []
  | .processCapabilitiesReply => [(.supportedFeatures, .u8)]
  | .messageReport =>
      [(.dataControl, .u8), (.systemMessages, .u8), (.otherMessages, .u8),
        (.channelControllerMessages, .u8), (.noteDataMessages, .u8)]
  | .messageReportReply =>
      [(.systemMessages, .u8), (.otherMessages, .u8),
        (.channelControllerMessages, .u8), (.noteDataMessages, .u8)]
  | .endOfMessageReport => []

/-- `n` bytes from stream position `p`, `rd` reading one position and failing outside what may be read (R75). -/
def takeBytes (rd : Nat → Option Byte) (p : Nat) : Nat → Option (List Byte)
  | 0 => some []
  | n + 1 =>
    match rd p with
    | none => none
    | some b =>
      match takeBytes rd (p + 1) n with
      | none => none
      | some bs => some (b :: bs)

/-- `c` records of `k` bytes from stream position `p` (R155). -/
def takeRecords (rd : Nat → Option Byte) (k p : Nat) : Nat → Option (List (List Byte))
  | 0 => some []
  | c + 1 =>
    match takeBytes rd p k with
    | none => none
    | some r =>
      match takeRecords rd k (p + k) c with
      | none => none
      | some rs => some (r :: rs)

/-- The count of a list, read at its width, and the position after it (R103, R155). -/
def takeCount (rd : Nat → Option Byte) (p : Nat) : CountWidth → Option (Nat × Nat)
  | .w8 =>
    match takeBytes rd p 1 with
    | some [b0] => some (b0.toNat, p + 1)
    | _ => none
  | .w16 =>
    match takeBytes rd p 2 with
    | some [b0, b1] => some ((ofBe16 b0 b1).toNat, p + 2)
    | _ => none
  | .w32 =>
    match takeBytes rd p 4 with
    | some [b0, b1, b2, b3] => some ((ofBe32 b0 b1 b2 b3).toNat, p + 4)
    | _ => none

/-- A MUID, its four wire bytes read in order `W3, W2, W1, W0` (R136, R155). -/
def takeMuid (rd : Nat → Option Byte) (p : Nat) : Option Word :=
  match takeBytes rd p 4 with
  | some [w3, w2, w1, w0] => some (muidFrom w3 w2 w1 w0)
  | _ => none

/-- `ParseField` (R155): the field's value and the position after it; `none` when a read fails. -/
def parseField (rd : Nat → Option Byte) (p : Nat) : FieldType → Option (FieldValue × Nat)
  | .u8 =>
    match takeBytes rd p 1 with
    | some [b0] => some (.u8 b0, p + 1)
    | _ => none
  | .u16 =>
    match takeBytes rd p 2 with
    | some [b0, b1] => some (.u16 (ofBe16 b0 b1), p + 2)
    | _ => none
  | .u32 =>
    match takeBytes rd p 4 with
    | some [b0, b1, b2, b3] => some (.u32 (ofBe32 b0 b1 b2 b3), p + 4)
    | _ => none
  | .bytes n =>
    match takeBytes rd p n with
    | some bs => some (.bytes bs, p + n)
    | none => none
  | .muid =>
    match takeMuid rd p with
    | some m => some (.muid m, p + 4)
    | none => none
  | .list w k =>
    match takeCount rd p w with
    | none => none
    | some (c, p') =>
      match takeRecords rd k p' c with
      | some rs => some (.records w rs, p' + k * c)
      | none => none
  | .pattern48 =>
    match takeBytes rd p 48 with
    | some t => some (.pattern (t == testPattern), p + 48)
    | none => none

/-- The fields of a layout, one after the other (R157). -/
def parseFields (rd : Nat → Option Byte) (p : Nat) :
    List (FieldName × FieldType) → Option (List (FieldName × FieldValue) × Nat)
  | [] => some ([], p)
  | (name, ty) :: rest =>
    match parseField rd p ty with
    | none => none
    | some (v, p') =>
      match parseFields rd p' rest with
      | none => none
      | some (vs, p'') => some ((name, v) :: vs, p'')

/-- The header and the payload of a kind (R157 up to `q <- p`): the record and `q`. Positions 0, 1, 3 and 4
are skipped: `headerMatches` has looked at them. -/
def parseRecord (rd : Nat → Option Byte) (k : Kind) : Option (Record × Nat) :=
  match rd 2, rd 5, takeMuid rd 6, takeMuid rd 10, parseFields rd 14 (layout k) with
  | some dev, some ver, some src, some dst, some (vs, q) =>
    some ({ deviceId := dev, version := ver, source := src, destination := dst, payload := vs }, q)
  | _, _, _, _, _ => none

end Sys2Proof.Machine
end

