-- ==== Sys2Proof/Machine/Ops.lean ====
section
/-! DEFINITION. The shared operations over the state: the buffer memory, the position map and the group cursor
(spec/20_memory.md), raising an error (spec/60_exceptions.md), the generic encode, decode and classify
(spec/41_framing.md), and the steps of the host (R556). -/

namespace Sys2Proof.Machine

/-! ## Updates of the state, one per field an operation writes -/

/-- The state with another buffer memory. -/
def State.withMem (s : State) (m : Memory) : State := { s with mem := m }

/-- The state with another response. -/
def State.withRsp (s : State) (r : Response) : State := { s with rsp := r }

/-- The state with the fault mark set (R507). -/
def State.marked (s : State) : State := { s with faultMark := true }

/-- The state with another rest of the host's program. -/
def State.withPending (s : State) (p : List HostStep) : State := { s with pending := p }

/-- The state after one more draw of the random source (R38). -/
def State.drawn (s : State) : State := { s with draws := s.draws + 1 }

/-! ## The buffer memory -/

/-- The byte at an address (R34); an address the memory does not list reads as `Config.unlistedByte`. -/
def Memory.read : Memory → Nat → Byte
  | [], _ => Config.unlistedByte
  | c :: m, a => if c.1 = a then c.2 else Memory.read m a

/-- Put a cell in its place by rising address. -/
def Memory.insert (a : Nat) (v : Byte) : Memory → Memory
  | [] => [(a, v)]
  | c :: m => if a < c.1 then (a, v) :: c :: m else c :: Memory.insert a v m

/-- The memory without the cells of an address. -/
def Memory.erase (a : Nat) (m : Memory) : Memory := m.filter (fun c => c.1 != a)

/-- `MemWrite(a, 1, v)` (R13, R73): the canonical form stays, since a byte that reads as an unlisted one does is
not listed. -/
def Memory.write (m : Memory) (a : Nat) (v : Byte) : Memory :=
  if v = Config.unlistedByte then m.erase a else Memory.insert a v (m.erase a)

/-- Bytes at consecutive addresses from `a` up. -/
def Memory.writeFrom (m : Memory) (a : Nat) : List Byte → Memory
  | [] => m
  | b :: bs => Memory.writeFrom (m.write a b) (a + 1) bs

/-! ## Stream positions -/

/-- `A(p)` (R61), on natural numbers (R78, D37). -/
def addrOf (p : Nat) : Nat := 4 * (p / 4) + (3 - p % 4)

/-- The group cursor (R37), a value inside one operation. -/
structure Cursor where
  offset : Nat
  nth : Nat
  deriving DecidableEq, Repr

/-- `CursorAt(p)` (R62). -/
def cursorAt (p : Nat) : Cursor := { offset := 4 * (p / 4), nth := 3 - p % 4 }

/-- `Addr(offset, nth)` (R62). -/
def cursorAddr (c : Cursor) : Nat := c.offset + c.nth

/-- `Advance(offset, nth)` (R62). -/
def cursorAdvance (c : Cursor) : Cursor :=
  if c.nth = 0 then { offset := c.offset + 4, nth := 3 } else { c with nth := c.nth - 1 }

/-- Write bytes through the cursor, advancing after each (R62, R133). -/
def writeCursor (m : Memory) (c : Cursor) : List Byte → Memory
  | [] => m
  | b :: bs => writeCursor (m.write (cursorAddr c) b) (cursorAdvance c) bs

/-- Read a MUID through the cursor, `W3` first, advancing after each byte (R62, R134). -/
def readMuid (m : Memory) (c : Cursor) : Word :=
  let c2 := cursorAdvance c
  let c1 := cursorAdvance c2
  let c0 := cursorAdvance c1
  muidFrom (m.read (cursorAddr c)) (m.read (cursorAddr c2)) (m.read (cursorAddr c1)) (m.read (cursorAddr c0))

/-- `SWrite(p, b0), SWrite(p+1, b1), ...` (R13, R154). -/
def writeStream (m : Memory) (p : Nat) : List Byte → Memory
  | [] => m
  | b :: bs => writeStream (m.write (addrOf p) b) (p + 1) bs

/-- `SRead(p)` (R75): a decode never reads an address at or above `len`. -/
def streamRead (m : Memory) (len p : Nat) : Option Byte :=
  if addrOf p < len then some (m.read (addrOf p)) else none

/-! ## Responses and errors -/

/-- End an operation with a response; it replaces the whole response (R40). -/
def respond (r : Response) (s : State) : Host.Outcome State Fault Refusal :=
  .next (s.withRsp r)

/-- `raise E` (R13, R502, R507): the response holds the status and nothing else, no buffer byte is written, the
fault mark is set. There is no trap: the next request starts from this state (R500, R509, R510). -/
def raise (e : Status) (s : State) : Host.Outcome State Fault Refusal :=
  .next (s.withRsp (Response.ofStatus e)).marked

/-- `fail_parse` (R13, R503): a result, not an error; the fault mark is untouched (R507). -/
def failParse (s : State) : Host.Outcome State Fault Refusal := respond Response.parseFailed s

/-! ## The generic operations of spec/41_framing.md -/

/-- The MUID operands every put has are in range: `source`, and `destination` where the kind has one (R154). -/
def headerInRange (h : Header) (destination : Option Word) : Bool :=
  muidInRange h.source && (destination.map muidInRange).getD true

/-- `PutMessage(K)` (R154): operand ranges, then capacity, then the write in stream order. -/
def putMessage (k : Kind) (len : Word) (h : Header) (destination : Option Word) (payload : List FieldValue)
    (s : State) : Host.Outcome State Fault Refusal :=
  if !(headerInRange h destination && payload.all fieldInRange) then raise .overflowError s
  else if s.cap.val < len.toNat then raise .capacityError s
  else
    let body := emitHeader k h destination ++ emitFields payload
    let count := messageLength body.length
    if len.toNat < count then raise .capacityError s
    else respond (Response.put count) (s.withMem (writeStream s.mem 0 (frameMessage body)))

/-- The body of `GetMessage(K)` (R157) after the check of `len` against `BUF_CAP`: the record and `L`, or `none`
where it says `fail_parse`. -/
def parseMessage (k : Kind) (len : Nat) (m : Memory) : Option (Record × Nat) :=
  if headerMatches k len m.read then
    match parseRecord (streamRead m len) k with
    | none => none
    | some (r, q) =>
      if len < messageLength q then none
      else if streamRead m len (messageLength q - 1) = some 0xF7 then some (r, messageLength q)
      else none
  else none

/-- `GetMessage(K)` (R157). -/
def getMessage (k : Kind) (len : Word) (s : State) : Host.Outcome State Fault Refusal :=
  if s.cap.val < len.toNat then raise .capacityError s
  else
    match parseMessage k len.toNat s.mem with
    | some (r, count) => respond (Response.got count r) s
    | none => failParse s

/-- `IsKind(K)` (R156). -/
def isKind (k : Kind) (len : Word) (s : State) : Host.Outcome State Fault Refusal :=
  if s.cap.val < len.toNat then raise .capacityError s
  else respond (Response.flagged (headerMatches k len.toNat s.mem.read)) s

/-! ## The MUID operations of spec/40_muid.md -/

/-- Some byte of the positional MUID at `pos` would lie outside the buffer (R133, R134; R78: no wrap). -/
def muidOutside (cap pos : Nat) : Bool :=
  (List.range 4).any (fun i => decide (cap ≤ addrOf (pos + i)))

/-! ## The host's steps -/

/-- The host's next step, and the state in which it is taken from the program (R556); `none` when the block
waits for a request (R550). -/
def takeStep (s : State) : Option (HostStep × State) :=
  match s.pending with
  | [] => none
  | st :: rest => some (st, s.withPending rest)

/-- A request code outside the 98 legal ones raises `ILLEGAL_REQUEST` and does nothing else (R93, R506). -/
def illegalRequest (s : State) : Host.Outcome State Fault Refusal := raise .illegalRequest s

/-- The host writes bytes into the buffer between requests (R34, R80, R556). -/
def hostWrite (a : Nat) (bs : List Byte) (s : State) : Host.Outcome State Fault Refusal :=
  if bs = [] ∨ a + bs.length ≤ s.cap.val then .next (s.withMem (s.mem.writeFrom a bs))
  else .fault .hostWriteOutsideBuffer

/-- The host reads a response field: a field that holds no value sets the fault mark (R40, I11, R561). -/
def hostRead (f : RspField) (s : State) : Host.Outcome State Fault Refusal :=
  if s.rsp.holds f then .next s else .next s.marked

end Sys2Proof.Machine
end

