-- ==== Sys2Proof/Machine/Discovery.lean ====
section
/-! DEFINITION. The management kinds (spec/42_discovery.md): the meaning of each kind's `put_`, `get_` and `is_`
instruction, an instance of the generic operations of Ops.lean. A put lists its payload operands in the order of
the kind's layout rule; a get reads the fields of `layout`, the same rules' table in Operands.lean. -/

namespace Sys2Proof.Machine

/-- `put_discovery` (R201; layout R200). -/
def execPutDiscovery (len : Word) (hdr : Header) (manufacturerId : Bytes 3)
    (deviceFamily deviceFamilyModelNumber : Half) (softwareRevisionLevel : Bytes 4) (capability : Byte)
    (maxSysexMessageSize : Word) (s : State) : Host.Outcome State Fault Refusal :=
  putMessage .discovery len hdr none [.bytes manufacturerId.toList, .u16 deviceFamily,
    .u16 deviceFamilyModelNumber, .bytes softwareRevisionLevel.toList, .u8 capability,
    .u32 maxSysexMessageSize] s

/-- `get_discovery` (R202; layout R200). -/
def execGetDiscovery (len : Word) (s : State) : Host.Outcome State Fault Refusal :=
  getMessage .discovery len s

/-- `is_discovery` (R203). -/
def execIsDiscovery (len : Word) (s : State) : Host.Outcome State Fault Refusal :=
  isKind .discovery len s

/-- `put_discovery_reply` (R205; layout R204). -/
def execPutDiscoveryReply (len : Word) (hdr : Header) (destination : Word) (manufacturerId : Bytes 3)
    (deviceFamily deviceFamilyModelNumber : Half) (softwareRevisionLevel : Bytes 4) (capability : Byte)
    (maxSysexMessageSize : Word) (s : State) : Host.Outcome State Fault Refusal :=
  putMessage .discoveryReply len hdr (some destination) [.bytes manufacturerId.toList, .u16 deviceFamily,
    .u16 deviceFamilyModelNumber, .bytes softwareRevisionLevel.toList, .u8 capability,
    .u32 maxSysexMessageSize] s

/-- `get_discovery_reply` (R206; layout R204). -/
def execGetDiscoveryReply (len : Word) (s : State) : Host.Outcome State Fault Refusal :=
  getMessage .discoveryReply len s

/-- `is_discovery_reply` (R207). -/
def execIsDiscoveryReply (len : Word) (s : State) : Host.Outcome State Fault Refusal :=
  isKind .discoveryReply len s

/-- `put_invalidate_muid` (R209; layout R208). -/
def execPutInvalidateMuid (len : Word) (hdr : Header) (targetMuid : Word) (s : State) :
    Host.Outcome State Fault Refusal :=
  putMessage .invalidateMuid len hdr none [.muid targetMuid] s

/-- `get_invalidate_muid` (R210; layout R208). -/
def execGetInvalidateMuid (len : Word) (s : State) : Host.Outcome State Fault Refusal :=
  getMessage .invalidateMuid len s

/-- `is_invalidate_muid` (R211). -/
def execIsInvalidateMuid (len : Word) (s : State) : Host.Outcome State Fault Refusal :=
  isKind .invalidateMuid len s

/-- `put_ack` (R213; layout R212). -/
def execPutAck (len : Word) (hdr : Header) (destination : Word)
    (origTransaction statusCode statusData : Byte) (details : Bytes 5) (message : List Byte) (s : State) :
    Host.Outcome State Fault Refusal :=
  putMessage .ack len hdr (some destination) [.u8 origTransaction, .u8 statusCode, .u8 statusData,
    .bytes details.toList, .records .w16 (recordsOfBytes message)] s

/-- `get_ack` (R214; layout R212). -/
def execGetAck (len : Word) (s : State) : Host.Outcome State Fault Refusal :=
  getMessage .ack len s

/-- `is_ack` (R215). -/
def execIsAck (len : Word) (s : State) : Host.Outcome State Fault Refusal :=
  isKind .ack len s

/-- `put_nak` (R217; layout R216). -/
def execPutNak (len : Word) (hdr : Header) (destination : Word) (s : State) :
    Host.Outcome State Fault Refusal :=
  putMessage .nak len hdr (some destination) [] s

/-- `get_nak` (R218; layout R216). -/
def execGetNak (len : Word) (s : State) : Host.Outcome State Fault Refusal :=
  getMessage .nak len s

/-- `is_nak` (R219). -/
def execIsNak (len : Word) (s : State) : Host.Outcome State Fault Refusal :=
  isKind .nak len s

end Sys2Proof.Machine
end

