-- ==== Sys2Proof/Machine/Muid.lean ====
section
/-! DEFINITION. The five MUID operations of spec/40_muid.md (R130 to R134). -/

namespace Sys2Proof.Machine

/-- `generate_muid` (R130): one draw of the random source (R38), widened with zeros. -/
def execGenerateMuid (s : State) : Host.Outcome State Fault Refusal :=
  respond (Response.muidIs ((Config.draw s.draws).setWidth 32)) s.drawn

/-- `put_muid` (R131): `byte[k]` at address `k`. -/
def execPutMuid (muid : Word) (s : State) : Host.Outcome State Fault Refusal :=
  if !muidInRange muid then raise .overflowError s
  else
    respond (Response.ofStatus .ok)
      (s.withMem ((((s.mem.write 3 (muidW3 muid)).write 2 (muidW2 muid)).write 1 (muidW1 muid)).write 0
        (muidW0 muid)))

/-- `get_muid` (R132). -/
def execGetMuid (s : State) : Host.Outcome State Fault Refusal :=
  respond (Response.muidIs (muidFrom (s.mem.read 3) (s.mem.read 2) (s.mem.read 1) (s.mem.read 0))) s

/-- `put_muid_with_position` (R133): overflow before capacity (R508). -/
def execPutMuidWithPosition (pos muid : Word) (s : State) : Host.Outcome State Fault Refusal :=
  if !muidInRange muid then raise .overflowError s
  else if muidOutside s.cap.val pos.toNat then raise .capacityError s
  else
    respond (Response.ofStatus .ok)
      (s.withMem (writeCursor s.mem (cursorAt pos.toNat) (muidWire muid)))

/-- `get_muid_with_position` (R134). -/
def execGetMuidWithPosition (pos : Word) (s : State) : Host.Outcome State Fault Refusal :=
  if muidOutside s.cap.val pos.toNat then raise .capacityError s
  else respond (Response.muidIs (readMuid s.mem (cursorAt pos.toNat))) s

end Sys2Proof.Machine
end

