-- ==== Sys2Proof/Machine/ProcessInquiry.lean ====
section
/-! DEFINITION. The process inquiry and message report kinds (spec/46_process_inquiry.md): the meaning of each kind's `put_`, `get_` and `is_`
instruction, an instance of the generic operations of Ops.lean. A put lists its payload operands in the order of
the kind's layout rule; a get reads the fields of `layout`, the same rules' table in Operands.lean. -/

namespace Sys2Proof.Machine

/-- `put_process_capabilities` (R441; layout R440). -/
def execPutProcessCapabilities (len : Word) (hdr : Header) (destination : Word) (s : State) :
    Host.Outcome State Fault Refusal :=
  putMessage .processCapabilities len hdr (some destination) [] s

/-- `get_process_capabilities` (R442; layout R440). -/
def execGetProcessCapabilities (len : Word) (s : State) : Host.Outcome State Fault Refusal :=
  getMessage .processCapabilities len s

/-- `is_process_capabilities` (R443). -/
def execIsProcessCapabilities (len : Word) (s : State) : Host.Outcome State Fault Refusal :=
  isKind .processCapabilities len s

/-- `put_process_capabilities_reply` (R445; layout R444). -/
def execPutProcessCapabilitiesReply (len : Word) (hdr : Header) (destination : Word)
    (supportedFeatures : Byte) (s : State) : Host.Outcome State Fault Refusal :=
  putMessage .processCapabilitiesReply len hdr (some destination) [.u8 supportedFeatures] s

/-- `get_process_capabilities_reply` (R446; layout R444). -/
def execGetProcessCapabilitiesReply (len : Word) (s : State) : Host.Outcome State Fault Refusal :=
  getMessage .processCapabilitiesReply len s

/-- `is_process_capabilities_reply` (R447). -/
def execIsProcessCapabilitiesReply (len : Word) (s : State) : Host.Outcome State Fault Refusal :=
  isKind .processCapabilitiesReply len s

/-- `put_message_report` (R449; layout R448). -/
def execPutMessageReport (len : Word) (hdr : Header) (destination : Word)
    (dataControl systemMessages otherMessages channelControllerMessages noteDataMessages : Byte) (s : State)
    : Host.Outcome State Fault Refusal :=
  putMessage .messageReport len hdr (some destination) [.u8 dataControl, .u8 systemMessages,
    .u8 otherMessages, .u8 channelControllerMessages, .u8 noteDataMessages] s

/-- `get_message_report` (R450; layout R448). -/
def execGetMessageReport (len : Word) (s : State) : Host.Outcome State Fault Refusal :=
  getMessage .messageReport len s

/-- `is_message_report` (R451). -/
def execIsMessageReport (len : Word) (s : State) : Host.Outcome State Fault Refusal :=
  isKind .messageReport len s

/-- `put_message_report_reply` (R453; layout R452). -/
def execPutMessageReportReply (len : Word) (hdr : Header) (destination : Word)
    (systemMessages otherMessages channelControllerMessages noteDataMessages : Byte) (s : State) :
    Host.Outcome State Fault Refusal :=
  putMessage .messageReportReply len hdr (some destination) [.u8 systemMessages, .u8 otherMessages,
    .u8 channelControllerMessages, .u8 noteDataMessages] s

/-- `get_message_report_reply` (R454; layout R452). -/
def execGetMessageReportReply (len : Word) (s : State) : Host.Outcome State Fault Refusal :=
  getMessage .messageReportReply len s

/-- `is_message_report_reply` (R455). -/
def execIsMessageReportReply (len : Word) (s : State) : Host.Outcome State Fault Refusal :=
  isKind .messageReportReply len s

/-- `put_end_of_message_report` (R457; layout R456). -/
def execPutEndOfMessageReport (len : Word) (hdr : Header) (destination : Word) (s : State) :
    Host.Outcome State Fault Refusal :=
  putMessage .endOfMessageReport len hdr (some destination) [] s

/-- `get_end_of_message_report` (R458; layout R456). -/
def execGetEndOfMessageReport (len : Word) (s : State) : Host.Outcome State Fault Refusal :=
  getMessage .endOfMessageReport len s

/-- `is_end_of_message_report` (R459). -/
def execIsEndOfMessageReport (len : Word) (s : State) : Host.Outcome State Fault Refusal :=
  isKind .endOfMessageReport len s

end Sys2Proof.Machine
end

