-- ==== Sys2Proof/Machine/Profile.lean ====
section
/-! DEFINITION. The profile kinds (spec/44_profile.md): the meaning of each kind's `put_`, `get_` and `is_`
instruction, an instance of the generic operations of Ops.lean. A put lists its payload operands in the order of
the kind's layout rule; a get reads the fields of `layout`, the same rules' table in Operands.lean. -/

namespace Sys2Proof.Machine

/-- `put_profile` (R301; layout R300). -/
def execPutProfile (len : Word) (hdr : Header) (destination : Word) (s : State) :
    Host.Outcome State Fault Refusal :=
  putMessage .profile len hdr (some destination) [] s

/-- `get_profile` (R302; layout R300). -/
def execGetProfile (len : Word) (s : State) : Host.Outcome State Fault Refusal :=
  getMessage .profile len s

/-- `is_profile` (R303). -/
def execIsProfile (len : Word) (s : State) : Host.Outcome State Fault Refusal :=
  isKind .profile len s

/-- `put_profile_reply` (R305; layout R304). -/
def execPutProfileReply (len : Word) (hdr : Header) (destination : Word)
    (enabledProfiles disabledProfiles : List (Bytes 5)) (s : State) : Host.Outcome State Fault Refusal :=
  putMessage .profileReply len hdr (some destination) [.records .w16 (recordsOf enabledProfiles),
    .records .w16 (recordsOf disabledProfiles)] s

/-- `get_profile_reply` (R306; layout R304). -/
def execGetProfileReply (len : Word) (s : State) : Host.Outcome State Fault Refusal :=
  getMessage .profileReply len s

/-- `is_profile_reply` (R307). -/
def execIsProfileReply (len : Word) (s : State) : Host.Outcome State Fault Refusal :=
  isKind .profileReply len s

/-- `put_profile_enabled_report` (R309; layout R308). -/
def execPutProfileEnabledReport (len : Word) (hdr : Header) (profile : Bytes 5) (channelCount : Half)
    (s : State) : Host.Outcome State Fault Refusal :=
  putMessage .profileEnabledReport len hdr none [.bytes profile.toList, .u16 channelCount] s

/-- `get_profile_enabled_report` (R310; layout R308). -/
def execGetProfileEnabledReport (len : Word) (s : State) : Host.Outcome State Fault Refusal :=
  getMessage .profileEnabledReport len s

/-- `is_profile_enabled_report` (R311). -/
def execIsProfileEnabledReport (len : Word) (s : State) : Host.Outcome State Fault Refusal :=
  isKind .profileEnabledReport len s

/-- `put_profile_disabled_report` (R313; layout R312). -/
def execPutProfileDisabledReport (len : Word) (hdr : Header) (profile : Bytes 5) (channelCount : Half)
    (s : State) : Host.Outcome State Fault Refusal :=
  putMessage .profileDisabledReport len hdr none [.bytes profile.toList, .u16 channelCount] s

/-- `get_profile_disabled_report` (R314; layout R312). -/
def execGetProfileDisabledReport (len : Word) (s : State) : Host.Outcome State Fault Refusal :=
  getMessage .profileDisabledReport len s

/-- `is_profile_disabled_report` (R315). -/
def execIsProfileDisabledReport (len : Word) (s : State) : Host.Outcome State Fault Refusal :=
  isKind .profileDisabledReport len s

/-- `put_profile_added` (R317; layout R316). -/
def execPutProfileAdded (len : Word) (hdr : Header) (profile : Bytes 5) (s : State) :
    Host.Outcome State Fault Refusal :=
  putMessage .profileAdded len hdr none [.bytes profile.toList] s

/-- `get_profile_added` (R318; layout R316). -/
def execGetProfileAdded (len : Word) (s : State) : Host.Outcome State Fault Refusal :=
  getMessage .profileAdded len s

/-- `is_profile_added` (R319). -/
def execIsProfileAdded (len : Word) (s : State) : Host.Outcome State Fault Refusal :=
  isKind .profileAdded len s

/-- `put_profile_removed` (R321; layout R320). -/
def execPutProfileRemoved (len : Word) (hdr : Header) (profile : Bytes 5) (s : State) :
    Host.Outcome State Fault Refusal :=
  putMessage .profileRemoved len hdr none [.bytes profile.toList] s

/-- `get_profile_removed` (R322; layout R320). -/
def execGetProfileRemoved (len : Word) (s : State) : Host.Outcome State Fault Refusal :=
  getMessage .profileRemoved len s

/-- `is_profile_removed` (R323). -/
def execIsProfileRemoved (len : Word) (s : State) : Host.Outcome State Fault Refusal :=
  isKind .profileRemoved len s

/-- `put_profile_specific_data` (R325; layout R324). -/
def execPutProfileSpecificData (len : Word) (hdr : Header) (destination : Word) (profileId : Bytes 5)
    (data : List Byte) (s : State) : Host.Outcome State Fault Refusal :=
  putMessage .profileSpecificData len hdr (some destination) [.bytes profileId.toList,
    .records .w32 (recordsOfBytes data)] s

/-- `get_profile_specific_data` (R326; layout R324). -/
def execGetProfileSpecificData (len : Word) (s : State) : Host.Outcome State Fault Refusal :=
  getMessage .profileSpecificData len s

/-- `is_profile_specific_data` (R327). -/
def execIsProfileSpecificData (len : Word) (s : State) : Host.Outcome State Fault Refusal :=
  isKind .profileSpecificData len s

end Sys2Proof.Machine
end

