-- ==== Sys2Proof/Machine/PropertyExchange.lean ====
section
/-! DEFINITION. The property exchange kinds (spec/45_property_exchange.md): the meaning of each kind's `put_`, `get_` and `is_`
instruction, an instance of the generic operations of Ops.lean. A put lists its payload operands in the order of
the kind's layout rule; a get reads the fields of `layout`, the same rules' table in Operands.lean. -/

namespace Sys2Proof.Machine

/-- `put_property_exchange_capabilities` (R361; layout R360). -/
def execPutPropertyExchangeCapabilities (len : Word) (hdr : Header) (destination : Word)
    (supportedCount major minor : Byte) (s : State) : Host.Outcome State Fault Refusal :=
  putMessage .propertyExchangeCapabilities len hdr (some destination) [.u8 supportedCount, .u8 major,
    .u8 minor] s

/-- `get_property_exchange_capabilities` (R362; layout R360). -/
def execGetPropertyExchangeCapabilities (len : Word) (s : State) : Host.Outcome State Fault Refusal :=
  getMessage .propertyExchangeCapabilities len s

/-- `is_property_exchange_capabilities` (R363). -/
def execIsPropertyExchangeCapabilities (len : Word) (s : State) : Host.Outcome State Fault Refusal :=
  isKind .propertyExchangeCapabilities len s

/-- `put_property_exchange_capabilities_reply` (R365; layout R364). -/
def execPutPropertyExchangeCapabilitiesReply (len : Word) (hdr : Header) (destination : Word)
    (supportedCount major minor : Byte) (s : State) : Host.Outcome State Fault Refusal :=
  putMessage .propertyExchangeCapabilitiesReply len hdr (some destination) [.u8 supportedCount, .u8 major,
    .u8 minor] s

/-- `get_property_exchange_capabilities_reply` (R366; layout R364). -/
def execGetPropertyExchangeCapabilitiesReply (len : Word) (s : State) : Host.Outcome State Fault Refusal :=
  getMessage .propertyExchangeCapabilitiesReply len s

/-- `is_property_exchange_capabilities_reply` (R367). -/
def execIsPropertyExchangeCapabilitiesReply (len : Word) (s : State) : Host.Outcome State Fault Refusal :=
  isKind .propertyExchangeCapabilitiesReply len s

/-- `put_get_property_data` (R369; layout R368). -/
def execPutGetPropertyData (len : Word) (hdr : Header) (destination : Word) (requestId : Byte)
    (headerData : List Byte) (chunkCount nthChunk : Half) (propertyData : List Byte) (s : State) :
    Host.Outcome State Fault Refusal :=
  putMessage .getPropertyData len hdr (some destination) [.u8 requestId,
    .records .w16 (recordsOfBytes headerData), .u16 chunkCount, .u16 nthChunk,
    .records .w16 (recordsOfBytes propertyData)] s

/-- `get_get_property_data` (R370; layout R368). -/
def execGetGetPropertyData (len : Word) (s : State) : Host.Outcome State Fault Refusal :=
  getMessage .getPropertyData len s

/-- `is_get_property_data` (R371). -/
def execIsGetPropertyData (len : Word) (s : State) : Host.Outcome State Fault Refusal :=
  isKind .getPropertyData len s

/-- `put_get_property_data_reply` (R373; layout R372). -/
def execPutGetPropertyDataReply (len : Word) (hdr : Header) (destination : Word) (requestId : Byte)
    (headerData : List Byte) (chunkCount nthChunk : Half) (propertyData : List Byte) (s : State) :
    Host.Outcome State Fault Refusal :=
  putMessage .getPropertyDataReply len hdr (some destination) [.u8 requestId,
    .records .w16 (recordsOfBytes headerData), .u16 chunkCount, .u16 nthChunk,
    .records .w16 (recordsOfBytes propertyData)] s

/-- `get_get_property_data_reply` (R374; layout R372). -/
def execGetGetPropertyDataReply (len : Word) (s : State) : Host.Outcome State Fault Refusal :=
  getMessage .getPropertyDataReply len s

/-- `is_get_property_data_reply` (R375). -/
def execIsGetPropertyDataReply (len : Word) (s : State) : Host.Outcome State Fault Refusal :=
  isKind .getPropertyDataReply len s

/-- `put_set_property_data` (R377; layout R376). -/
def execPutSetPropertyData (len : Word) (hdr : Header) (destination : Word) (requestId : Byte)
    (headerData : List Byte) (chunkCount nthChunk : Half) (propertyData : List Byte) (s : State) :
    Host.Outcome State Fault Refusal :=
  putMessage .setPropertyData len hdr (some destination) [.u8 requestId,
    .records .w16 (recordsOfBytes headerData), .u16 chunkCount, .u16 nthChunk,
    .records .w16 (recordsOfBytes propertyData)] s

/-- `get_set_property_data` (R378; layout R376). -/
def execGetSetPropertyData (len : Word) (s : State) : Host.Outcome State Fault Refusal :=
  getMessage .setPropertyData len s

/-- `is_set_property_data` (R379). -/
def execIsSetPropertyData (len : Word) (s : State) : Host.Outcome State Fault Refusal :=
  isKind .setPropertyData len s

/-- `put_set_property_data_reply` (R381; layout R380). -/
def execPutSetPropertyDataReply (len : Word) (hdr : Header) (destination : Word) (requestId : Byte)
    (headerData : List Byte) (chunkCount nthChunk : Half) (propertyData : List Byte) (s : State) :
    Host.Outcome State Fault Refusal :=
  putMessage .setPropertyDataReply len hdr (some destination) [.u8 requestId,
    .records .w16 (recordsOfBytes headerData), .u16 chunkCount, .u16 nthChunk,
    .records .w16 (recordsOfBytes propertyData)] s

/-- `get_set_property_data_reply` (R382; layout R380). -/
def execGetSetPropertyDataReply (len : Word) (s : State) : Host.Outcome State Fault Refusal :=
  getMessage .setPropertyDataReply len s

/-- `is_set_property_data_reply` (R383). -/
def execIsSetPropertyDataReply (len : Word) (s : State) : Host.Outcome State Fault Refusal :=
  isKind .setPropertyDataReply len s

/-- `put_subscription` (R385; layout R384). -/
def execPutSubscription (len : Word) (hdr : Header) (destination : Word) (requestId : Byte)
    (headerData : List Byte) (chunkCount nthChunk : Half) (propertyData : List Byte) (s : State) :
    Host.Outcome State Fault Refusal :=
  putMessage .subscription len hdr (some destination) [.u8 requestId,
    .records .w16 (recordsOfBytes headerData), .u16 chunkCount, .u16 nthChunk,
    .records .w16 (recordsOfBytes propertyData)] s

/-- `get_subscription` (R386; layout R384). -/
def execGetSubscription (len : Word) (s : State) : Host.Outcome State Fault Refusal :=
  getMessage .subscription len s

/-- `is_subscription` (R387). -/
def execIsSubscription (len : Word) (s : State) : Host.Outcome State Fault Refusal :=
  isKind .subscription len s

/-- `put_subscription_reply` (R389; layout R388). -/
def execPutSubscriptionReply (len : Word) (hdr : Header) (destination : Word) (requestId : Byte)
    (headerData : List Byte) (chunkCount nthChunk : Half) (propertyData : List Byte) (s : State) :
    Host.Outcome State Fault Refusal :=
  putMessage .subscriptionReply len hdr (some destination) [.u8 requestId,
    .records .w16 (recordsOfBytes headerData), .u16 chunkCount, .u16 nthChunk,
    .records .w16 (recordsOfBytes propertyData)] s

/-- `get_subscription_reply` (R390; layout R388). -/
def execGetSubscriptionReply (len : Word) (s : State) : Host.Outcome State Fault Refusal :=
  getMessage .subscriptionReply len s

/-- `is_subscription_reply` (R391). -/
def execIsSubscriptionReply (len : Word) (s : State) : Host.Outcome State Fault Refusal :=
  isKind .subscriptionReply len s

end Sys2Proof.Machine
end

