-- ==== Sys2Proof/Machine/Protocol.lean ====
section
/-! DEFINITION. The protocol negotiation kinds (spec/43_protocol.md): the meaning of each kind's `put_`, `get_` and `is_`
instruction, an instance of the generic operations of Ops.lean. A put lists its payload operands in the order of
the kind's layout rule; a get reads the fields of `layout`, the same rules' table in Operands.lean. -/

namespace Sys2Proof.Machine

/-- `put_initiate_protocol_negotiation` (R251; layout R250). -/
def execPutInitiateProtocolNegotiation (len : Word) (hdr : Header) (destination : Word)
    (authorityLevel : Byte) (supportedProtocols : List (Bytes 5)) (s : State) :
    Host.Outcome State Fault Refusal :=
  putMessage .initiateProtocolNegotiation len hdr (some destination) [.u8 authorityLevel,
    .records .w8 (recordsOf supportedProtocols)] s

/-- `get_initiate_protocol_negotiation` (R252; layout R250). -/
def execGetInitiateProtocolNegotiation (len : Word) (s : State) : Host.Outcome State Fault Refusal :=
  getMessage .initiateProtocolNegotiation len s

/-- `is_initiate_protocol_negotiation` (R253). -/
def execIsInitiateProtocolNegotiation (len : Word) (s : State) : Host.Outcome State Fault Refusal :=
  isKind .initiateProtocolNegotiation len s

/-- `put_initiate_protocol_negotiation_reply` (R255; layout R254). -/
def execPutInitiateProtocolNegotiationReply (len : Word) (hdr : Header) (destination : Word)
    (authorityLevel : Byte) (supportedProtocols : List (Bytes 5)) (s : State) :
    Host.Outcome State Fault Refusal :=
  putMessage .initiateProtocolNegotiationReply len hdr (some destination) [.u8 authorityLevel,
    .records .w8 (recordsOf supportedProtocols)] s

/-- `get_initiate_protocol_negotiation_reply` (R256; layout R254). -/
def execGetInitiateProtocolNegotiationReply (len : Word) (s : State) : Host.Outcome State Fault Refusal :=
  getMessage .initiateProtocolNegotiationReply len s

/-- `is_initiate_protocol_negotiation_reply` (R257). -/
def execIsInitiateProtocolNegotiationReply (len : Word) (s : State) : Host.Outcome State Fault Refusal :=
  isKind .initiateProtocolNegotiationReply len s

/-- `put_set_protocol_type` (R259; layout R258). -/
def execPutSetProtocolType (len : Word) (hdr : Header) (destination : Word) (authorityLevel : Byte)
    (protocolType : Bytes 5) (s : State) : Host.Outcome State Fault Refusal :=
  putMessage .setProtocolType len hdr (some destination) [.u8 authorityLevel, .bytes protocolType.toList] s

/-- `get_set_protocol_type` (R260; layout R258). -/
def execGetSetProtocolType (len : Word) (s : State) : Host.Outcome State Fault Refusal :=
  getMessage .setProtocolType len s

/-- `is_set_protocol_type` (R261). -/
def execIsSetProtocolType (len : Word) (s : State) : Host.Outcome State Fault Refusal :=
  isKind .setProtocolType len s

/-- `put_confirm_protocol_type` (R272; layout R271). -/
def execPutConfirmProtocolType (len : Word) (hdr : Header) (destination : Word) (authorityLevel : Byte)
    (s : State) : Host.Outcome State Fault Refusal :=
  putMessage .confirmProtocolType len hdr (some destination) [.u8 authorityLevel, .pattern true] s

/-- `get_confirm_protocol_type` (R273; layout R271). -/
def execGetConfirmProtocolType (len : Word) (s : State) : Host.Outcome State Fault Refusal :=
  getMessage .confirmProtocolType len s

/-- `is_confirm_protocol_type` (R274). -/
def execIsConfirmProtocolType (len : Word) (s : State) : Host.Outcome State Fault Refusal :=
  isKind .confirmProtocolType len s

/-- `put_confirm_protocol_type_reply` (R276; layout R275). -/
def execPutConfirmProtocolTypeReply (len : Word) (hdr : Header) (destination : Word) (authorityLevel : Byte)
    (s : State) : Host.Outcome State Fault Refusal :=
  putMessage .confirmProtocolTypeReply len hdr (some destination) [.u8 authorityLevel, .pattern true] s

/-- `get_confirm_protocol_type_reply` (R277; layout R275). -/
def execGetConfirmProtocolTypeReply (len : Word) (s : State) : Host.Outcome State Fault Refusal :=
  getMessage .confirmProtocolTypeReply len s

/-- `is_confirm_protocol_type_reply` (R278). -/
def execIsConfirmProtocolTypeReply (len : Word) (s : State) : Host.Outcome State Fault Refusal :=
  isKind .confirmProtocolTypeReply len s

/-- `put_confirm_protocol_type_established` (R280; layout R279). -/
def execPutConfirmProtocolTypeEstablished (len : Word) (hdr : Header) (destination : Word)
    (authorityLevel : Byte) (s : State) : Host.Outcome State Fault Refusal :=
  putMessage .confirmProtocolTypeEstablished len hdr (some destination) [.u8 authorityLevel] s

/-- `get_confirm_protocol_type_established` (R281; layout R279). -/
def execGetConfirmProtocolTypeEstablished (len : Word) (s : State) : Host.Outcome State Fault Refusal :=
  getMessage .confirmProtocolTypeEstablished len s

/-- `is_confirm_protocol_type_established` (R282). -/
def execIsConfirmProtocolTypeEstablished (len : Word) (s : State) : Host.Outcome State Fault Refusal :=
  isKind .confirmProtocolTypeEstablished len s

end Sys2Proof.Machine
end

