-- ==== Sys2Proof/Machine/Dispatch.lean ====
section
/-! DEFINITION. The dispatch: one arm per constructor of Instr, each one direct call of the instruction's own
meaning. -/

namespace Sys2Proof.Machine

def exec (i : Instr) (s : State) : Host.Outcome State Fault Refusal :=
  match i with
  | .isDiscovery len => Sys2Proof.Machine.execIsDiscovery len s
  | .isDiscoveryReply len => Sys2Proof.Machine.execIsDiscoveryReply len s
  | .isInvalidateMuid len => Sys2Proof.Machine.execIsInvalidateMuid len s
  | .isAck len => Sys2Proof.Machine.execIsAck len s
  | .isNak len => Sys2Proof.Machine.execIsNak len s
  | .isInitiateProtocolNegotiation len => Sys2Proof.Machine.execIsInitiateProtocolNegotiation len s
  | .isInitiateProtocolNegotiationReply len => Sys2Proof.Machine.execIsInitiateProtocolNegotiationReply len s
  | .isSetProtocolType len => Sys2Proof.Machine.execIsSetProtocolType len s
  | .isConfirmProtocolType len => Sys2Proof.Machine.execIsConfirmProtocolType len s
  | .isConfirmProtocolTypeReply len => Sys2Proof.Machine.execIsConfirmProtocolTypeReply len s
  | .isConfirmProtocolTypeEstablished len => Sys2Proof.Machine.execIsConfirmProtocolTypeEstablished len s
  | .isProfile len => Sys2Proof.Machine.execIsProfile len s
  | .isProfileReply len => Sys2Proof.Machine.execIsProfileReply len s
  | .isProfileEnabledReport len => Sys2Proof.Machine.execIsProfileEnabledReport len s
  | .isProfileDisabledReport len => Sys2Proof.Machine.execIsProfileDisabledReport len s
  | .isProfileAdded len => Sys2Proof.Machine.execIsProfileAdded len s
  | .isProfileRemoved len => Sys2Proof.Machine.execIsProfileRemoved len s
  | .isProfileSpecificData len => Sys2Proof.Machine.execIsProfileSpecificData len s
  | .isPropertyExchangeCapabilities len => Sys2Proof.Machine.execIsPropertyExchangeCapabilities len s
  | .isPropertyExchangeCapabilitiesReply len => Sys2Proof.Machine.execIsPropertyExchangeCapabilitiesReply len s
  | .isGetPropertyData len => Sys2Proof.Machine.execIsGetPropertyData len s
  | .isGetPropertyDataReply len => Sys2Proof.Machine.execIsGetPropertyDataReply len s
  | .isSetPropertyData len => Sys2Proof.Machine.execIsSetPropertyData len s
  | .isSetPropertyDataReply len => Sys2Proof.Machine.execIsSetPropertyDataReply len s
  | .isSubscription len => Sys2Proof.Machine.execIsSubscription len s
  | .isSubscriptionReply len => Sys2Proof.Machine.execIsSubscriptionReply len s
  | .isProcessCapabilities len => Sys2Proof.Machine.execIsProcessCapabilities len s
  | .isProcessCapabilitiesReply len => Sys2Proof.Machine.execIsProcessCapabilitiesReply len s
  | .isMessageReport len => Sys2Proof.Machine.execIsMessageReport len s
  | .isMessageReportReply len => Sys2Proof.Machine.execIsMessageReportReply len s
  | .isEndOfMessageReport len => Sys2Proof.Machine.execIsEndOfMessageReport len s
  | .getDiscovery len => Sys2Proof.Machine.execGetDiscovery len s
  | .getDiscoveryReply len => Sys2Proof.Machine.execGetDiscoveryReply len s
  | .getInvalidateMuid len => Sys2Proof.Machine.execGetInvalidateMuid len s
  | .getAck len => Sys2Proof.Machine.execGetAck len s
  | .getNak len => Sys2Proof.Machine.execGetNak len s
  | .getInitiateProtocolNegotiation len => Sys2Proof.Machine.execGetInitiateProtocolNegotiation len s
  | .getInitiateProtocolNegotiationReply len => Sys2Proof.Machine.execGetInitiateProtocolNegotiationReply len s
  | .getSetProtocolType len => Sys2Proof.Machine.execGetSetProtocolType len s
  | .getConfirmProtocolType len => Sys2Proof.Machine.execGetConfirmProtocolType len s
  | .getConfirmProtocolTypeReply len => Sys2Proof.Machine.execGetConfirmProtocolTypeReply len s
  | .getConfirmProtocolTypeEstablished len => Sys2Proof.Machine.execGetConfirmProtocolTypeEstablished len s
  | .getProfile len => Sys2Proof.Machine.execGetProfile len s
  | .getProfileReply len => Sys2Proof.Machine.execGetProfileReply len s
  | .getProfileEnabledReport len => Sys2Proof.Machine.execGetProfileEnabledReport len s
  | .getProfileDisabledReport len => Sys2Proof.Machine.execGetProfileDisabledReport len s
  | .getProfileAdded len => Sys2Proof.Machine.execGetProfileAdded len s
  | .getProfileRemoved len => Sys2Proof.Machine.execGetProfileRemoved len s
  | .getProfileSpecificData len => Sys2Proof.Machine.execGetProfileSpecificData len s
  | .getPropertyExchangeCapabilities len => Sys2Proof.Machine.execGetPropertyExchangeCapabilities len s
  | .getPropertyExchangeCapabilitiesReply len => Sys2Proof.Machine.execGetPropertyExchangeCapabilitiesReply len s
  | .getGetPropertyData len => Sys2Proof.Machine.execGetGetPropertyData len s
  | .getGetPropertyDataReply len => Sys2Proof.Machine.execGetGetPropertyDataReply len s
  | .getSetPropertyData len => Sys2Proof.Machine.execGetSetPropertyData len s
  | .getSetPropertyDataReply len => Sys2Proof.Machine.execGetSetPropertyDataReply len s
  | .getSubscription len => Sys2Proof.Machine.execGetSubscription len s
  | .getSubscriptionReply len => Sys2Proof.Machine.execGetSubscriptionReply len s
  | .getProcessCapabilities len => Sys2Proof.Machine.execGetProcessCapabilities len s
  | .getProcessCapabilitiesReply len => Sys2Proof.Machine.execGetProcessCapabilitiesReply len s
  | .getMessageReport len => Sys2Proof.Machine.execGetMessageReport len s
  | .getMessageReportReply len => Sys2Proof.Machine.execGetMessageReportReply len s
  | .getEndOfMessageReport len => Sys2Proof.Machine.execGetEndOfMessageReport len s
  | .putDiscovery len hdr manufacturerId deviceFamily deviceFamilyModelNumber softwareRevisionLevel capability maxSysexMessageSize => Sys2Proof.Machine.execPutDiscovery len hdr manufacturerId deviceFamily deviceFamilyModelNumber softwareRevisionLevel capability maxSysexMessageSize s
  | .putDiscoveryReply len hdr destination manufacturerId deviceFamily deviceFamilyModelNumber softwareRevisionLevel capability maxSysexMessageSize => Sys2Proof.Machine.execPutDiscoveryReply len hdr destination manufacturerId deviceFamily deviceFamilyModelNumber softwareRevisionLevel capability maxSysexMessageSize s
  | .putInvalidateMuid len hdr targetMuid => Sys2Proof.Machine.execPutInvalidateMuid len hdr targetMuid s
  | .putAck len hdr destination origTransaction statusCode statusData details message => Sys2Proof.Machine.execPutAck len hdr destination origTransaction statusCode statusData details message s
  | .putNak len hdr destination => Sys2Proof.Machine.execPutNak len hdr destination s
  | .putInitiateProtocolNegotiation len hdr destination authorityLevel supportedProtocols => Sys2Proof.Machine.execPutInitiateProtocolNegotiation len hdr destination authorityLevel supportedProtocols s
  | .putInitiateProtocolNegotiationReply len hdr destination authorityLevel supportedProtocols => Sys2Proof.Machine.execPutInitiateProtocolNegotiationReply len hdr destination authorityLevel supportedProtocols s
  | .putSetProtocolType len hdr destination authorityLevel protocolType => Sys2Proof.Machine.execPutSetProtocolType len hdr destination authorityLevel protocolType s
  | .putConfirmProtocolType len hdr destination authorityLevel => Sys2Proof.Machine.execPutConfirmProtocolType len hdr destination authorityLevel s
  | .putConfirmProtocolTypeReply len hdr destination authorityLevel => Sys2Proof.Machine.execPutConfirmProtocolTypeReply len hdr destination authorityLevel s
  | .putConfirmProtocolTypeEstablished len hdr destination authorityLevel => Sys2Proof.Machine.execPutConfirmProtocolTypeEstablished len hdr destination authorityLevel s
  | .putProfile len hdr destination => Sys2Proof.Machine.execPutProfile len hdr destination s
  | .putProfileReply len hdr destination enabledProfiles disabledProfiles => Sys2Proof.Machine.execPutProfileReply len hdr destination enabledProfiles disabledProfiles s
  | .putProfileEnabledReport len hdr profile channelCount => Sys2Proof.Machine.execPutProfileEnabledReport len hdr profile channelCount s
  | .putProfileDisabledReport len hdr profile channelCount => Sys2Proof.Machine.execPutProfileDisabledReport len hdr profile channelCount s
  | .putProfileAdded len hdr profile => Sys2Proof.Machine.execPutProfileAdded len hdr profile s
  | .putProfileRemoved len hdr profile => Sys2Proof.Machine.execPutProfileRemoved len hdr profile s
  | .putProfileSpecificData len hdr destination profileId data => Sys2Proof.Machine.execPutProfileSpecificData len hdr destination profileId data s
  | .putPropertyExchangeCapabilities len hdr destination supportedCount major minor => Sys2Proof.Machine.execPutPropertyExchangeCapabilities len hdr destination supportedCount major minor s
  | .putPropertyExchangeCapabilitiesReply len hdr destination supportedCount major minor => Sys2Proof.Machine.execPutPropertyExchangeCapabilitiesReply len hdr destination supportedCount major minor s
  | .putGetPropertyData len hdr destination requestId headerData chunkCount nthChunk propertyData => Sys2Proof.Machine.execPutGetPropertyData len hdr destination requestId headerData chunkCount nthChunk propertyData s
  | .putGetPropertyDataReply len hdr destination requestId headerData chunkCount nthChunk propertyData => Sys2Proof.Machine.execPutGetPropertyDataReply len hdr destination requestId headerData chunkCount nthChunk propertyData s
  | .putSetPropertyData len hdr destination requestId headerData chunkCount nthChunk propertyData => Sys2Proof.Machine.execPutSetPropertyData len hdr destination requestId headerData chunkCount nthChunk propertyData s
  | .putSetPropertyDataReply len hdr destination requestId headerData chunkCount nthChunk propertyData => Sys2Proof.Machine.execPutSetPropertyDataReply len hdr destination requestId headerData chunkCount nthChunk propertyData s
  | .putSubscription len hdr destination requestId headerData chunkCount nthChunk propertyData => Sys2Proof.Machine.execPutSubscription len hdr destination requestId headerData chunkCount nthChunk propertyData s
  | .putSubscriptionReply len hdr destination requestId headerData chunkCount nthChunk propertyData => Sys2Proof.Machine.execPutSubscriptionReply len hdr destination requestId headerData chunkCount nthChunk propertyData s
  | .putProcessCapabilities len hdr destination => Sys2Proof.Machine.execPutProcessCapabilities len hdr destination s
  | .putProcessCapabilitiesReply len hdr destination supportedFeatures => Sys2Proof.Machine.execPutProcessCapabilitiesReply len hdr destination supportedFeatures s
  | .putMessageReport len hdr destination dataControl systemMessages otherMessages channelControllerMessages noteDataMessages => Sys2Proof.Machine.execPutMessageReport len hdr destination dataControl systemMessages otherMessages channelControllerMessages noteDataMessages s
  | .putMessageReportReply len hdr destination systemMessages otherMessages channelControllerMessages noteDataMessages => Sys2Proof.Machine.execPutMessageReportReply len hdr destination systemMessages otherMessages channelControllerMessages noteDataMessages s
  | .putEndOfMessageReport len hdr destination => Sys2Proof.Machine.execPutEndOfMessageReport len hdr destination s
  | .generateMuid => Sys2Proof.Machine.execGenerateMuid s
  | .putMuid muid => Sys2Proof.Machine.execPutMuid muid s
  | .getMuid => Sys2Proof.Machine.execGetMuid s
  | .putMuidWithPosition pos muid => Sys2Proof.Machine.execPutMuidWithPosition pos muid s
  | .getMuidWithPosition pos => Sys2Proof.Machine.execGetMuidWithPosition pos s

end Sys2Proof.Machine
end

