-- ==== Sys2Proof/Machine/Step.lean ====
section
/-! DEFINITION. One step of the machine: the host's next step (R556), served in program order, each as one atomic
step (R73, R80). A step with nothing pending changes nothing: the block waits for a request (R550). -/

namespace Sys2Proof.Machine

/-- One step. -/
def step (s : State) : Host.Outcome State Fault Refusal :=
  match takeStep s with
  | none => .next s
  | some (.request r, s') =>
    match decode r with
    | .ok i => exec i s'
    | .error _ => illegalRequest s'
  | some (.write a bs, s') => hostWrite a bs s'
  | some (.read f, s') => hostRead f s'

/-- `s` with the request of a table word issued next: the block takes its requests from the request port, not from
memory (R30, R83), so this stands for the host issuing it (log 4, log 10). -/
def State.withFetchWord (s : State) (nbits w : Nat) : State :=
  { s with pending := .request (tableRequest nbits w) :: s.pending }

end Sys2Proof.Machine
end

