-- ==== Sys2Proof/Machine/Classify.lean ====
section
/-! DEFINITION. The pseudo-instruction `classify` (R108): the block's Sub-ID packet classifier as a program sees
it, 31 requests and no request code of its own. -/

namespace Sys2Proof.Machine

/-- The requests `classify len=<n>` expands to, in the row order of R96 (R108). -/
def classifySteps (len : Word) : List HostStep :=
  Kind.all.map (fun k => HostStep.request (isRequest k len))

/-- Serve the `is_` requests of a list of kinds one after the other: the first kind whose request returned
`flag = 1`, and the state after the last request; `none` when an outcome is no next state. A request that returns
no flag counts as one that did not return 1: DESIGN CHOICE (log 16), since with `len > BUF_CAP` every request raises
`CAPACITY_ERROR` and R108 gives no result. -/
def classifyFrom (len : Word) : List Kind → State → Option (Option Kind × State)
  | [], s => some (none, s)
  | k :: ks, s =>
    match exec (isOf len k) s with
    | .next t =>
      match classifyFrom len ks t with
      | some (found, u) => some (if t.rsp.flag = some true then some k else found, u)
      | none => none
    | .fault _ => none
    | .refused _ => none

/-- `classify` (R108): the kind whose `is_` request returned 1, or `none`, with the state after the 31 requests. With
`len > BUF_CAP` the kind is `none` by the model's choice (log 16); the errors and the mark are R504's and R507's. -/
def classify (len : Word) (s : State) : Option (Option Kind × State) := classifyFrom len Kind.all s

end Sys2Proof.Machine
end

