-- ==== Sys2Proof/WellFormed.lean ====
section
/-! DEFINITION. Well-formed instructions: the operand ranges of R39. A MUID operand is legal iff it is below
`2^28`; a list operand has at most as many records as its count field can say. An instruction outside these
ranges still runs: it raises `OVERFLOW_ERROR` (R505). The widths of the other operands are in their types. -/

namespace Sys2Proof

/-- A MUID operand is legal (R39). -/
def muidLegal (m : Word) : Bool := decide (m.toNat < 2 ^ 28)

/-- A list of `c` records fits a count of `bits` bits (R39). -/
def countFits (bits c : Nat) : Bool := decide (c < 2 ^ bits)

/-- Every operand of the instruction is in the range R39 gives its type. -/
def Instr.wellFormed : Instr → Bool
  | .isDiscovery _ => true
  | .isDiscoveryReply _ => true
  | .isInvalidateMuid _ => true
  | .isAck _ => true
  | .isNak _ => true
  | .isInitiateProtocolNegotiation _ => true
  | .isInitiateProtocolNegotiationReply _ => true
  | .isSetProtocolType _ => true
  | .isConfirmProtocolType _ => true
  | .isConfirmProtocolTypeReply _ => true
  | .isConfirmProtocolTypeEstablished _ => true
  | .isProfile _ => true
  | .isProfileReply _ => true
  | .isProfileEnabledReport _ => true
  | .isProfileDisabledReport _ => true
  | .isProfileAdded _ => true
  | .isProfileRemoved _ => true
  | .isProfileSpecificData _ => true
  | .isPropertyExchangeCapabilities _ => true
  | .isPropertyExchangeCapabilitiesReply _ => true
  | .isGetPropertyData _ => true
  | .isGetPropertyDataReply _ => true
  | .isSetPropertyData _ => true
  | .isSetPropertyDataReply _ => true
  | .isSubscription _ => true
  | .isSubscriptionReply _ => true
  | .isProcessCapabilities _ => true
  | .isProcessCapabilitiesReply _ => true
  | .isMessageReport _ => true
  | .isMessageReportReply _ => true
  | .isEndOfMessageReport _ => true
  | .getDiscovery _ => true
  | .getDiscoveryReply _ => true
  | .getInvalidateMuid _ => true
  | .getAck _ => true
  | .getNak _ => true
  | .getInitiateProtocolNegotiation _ => true
  | .getInitiateProtocolNegotiationReply _ => true
  | .getSetProtocolType _ => true
  | .getConfirmProtocolType _ => true
  | .getConfirmProtocolTypeReply _ => true
  | .getConfirmProtocolTypeEstablished _ => true
  | .getProfile _ => true
  | .getProfileReply _ => true
  | .getProfileEnabledReport _ => true
  | .getProfileDisabledReport _ => true
  | .getProfileAdded _ => true
  | .getProfileRemoved _ => true
  | .getProfileSpecificData _ => true
  | .getPropertyExchangeCapabilities _ => true
  | .getPropertyExchangeCapabilitiesReply _ => true
  | .getGetPropertyData _ => true
  | .getGetPropertyDataReply _ => true
  | .getSetPropertyData _ => true
  | .getSetPropertyDataReply _ => true
  | .getSubscription _ => true
  | .getSubscriptionReply _ => true
  | .getProcessCapabilities _ => true
  | .getProcessCapabilitiesReply _ => true
  | .getMessageReport _ => true
  | .getMessageReportReply _ => true
  | .getEndOfMessageReport _ => true
  | .putDiscovery _ hdr _ _ _ _ _ _ => muidLegal hdr.source
  | .putDiscoveryReply _ hdr destination _ _ _ _ _ _ => muidLegal hdr.source && muidLegal destination
  | .putInvalidateMuid _ hdr targetMuid => muidLegal hdr.source && muidLegal targetMuid
  | .putAck _ hdr destination _ _ _ _ message =>
      muidLegal hdr.source && muidLegal destination && countFits 16 message.length
  | .putNak _ hdr destination => muidLegal hdr.source && muidLegal destination
  | .putInitiateProtocolNegotiation _ hdr destination _ supportedProtocols =>
      muidLegal hdr.source && muidLegal destination && countFits 8 supportedProtocols.length
  | .putInitiateProtocolNegotiationReply _ hdr destination _ supportedProtocols =>
      muidLegal hdr.source && muidLegal destination && countFits 8 supportedProtocols.length
  | .putSetProtocolType _ hdr destination _ _ => muidLegal hdr.source && muidLegal destination
  | .putConfirmProtocolType _ hdr destination _ => muidLegal hdr.source && muidLegal destination
  | .putConfirmProtocolTypeReply _ hdr destination _ => muidLegal hdr.source && muidLegal destination
  | .putConfirmProtocolTypeEstablished _ hdr destination _ =>
      muidLegal hdr.source && muidLegal destination
  | .putProfile _ hdr destination => muidLegal hdr.source && muidLegal destination
  | .putProfileReply _ hdr destination enabledProfiles disabledProfiles =>
      muidLegal hdr.source && muidLegal destination && countFits 16 enabledProfiles.length && countFits 16 disabledProfiles.length
  | .putProfileEnabledReport _ hdr _ _ => muidLegal hdr.source
  | .putProfileDisabledReport _ hdr _ _ => muidLegal hdr.source
  | .putProfileAdded _ hdr _ => muidLegal hdr.source
  | .putProfileRemoved _ hdr _ => muidLegal hdr.source
  | .putProfileSpecificData _ hdr destination _ data =>
      muidLegal hdr.source && muidLegal destination && countFits 32 data.length
  | .putPropertyExchangeCapabilities _ hdr destination _ _ _ =>
      muidLegal hdr.source && muidLegal destination
  | .putPropertyExchangeCapabilitiesReply _ hdr destination _ _ _ =>
      muidLegal hdr.source && muidLegal destination
  | .putGetPropertyData _ hdr destination _ headerData _ _ propertyData =>
      muidLegal hdr.source && muidLegal destination && countFits 16 headerData.length && countFits 16 propertyData.length
  | .putGetPropertyDataReply _ hdr destination _ headerData _ _ propertyData =>
      muidLegal hdr.source && muidLegal destination && countFits 16 headerData.length && countFits 16 propertyData.length
  | .putSetPropertyData _ hdr destination _ headerData _ _ propertyData =>
      muidLegal hdr.source && muidLegal destination && countFits 16 headerData.length && countFits 16 propertyData.length
  | .putSetPropertyDataReply _ hdr destination _ headerData _ _ propertyData =>
      muidLegal hdr.source && muidLegal destination && countFits 16 headerData.length && countFits 16 propertyData.length
  | .putSubscription _ hdr destination _ headerData _ _ propertyData =>
      muidLegal hdr.source && muidLegal destination && countFits 16 headerData.length && countFits 16 propertyData.length
  | .putSubscriptionReply _ hdr destination _ headerData _ _ propertyData =>
      muidLegal hdr.source && muidLegal destination && countFits 16 headerData.length && countFits 16 propertyData.length
  | .putProcessCapabilities _ hdr destination => muidLegal hdr.source && muidLegal destination
  | .putProcessCapabilitiesReply _ hdr destination _ => muidLegal hdr.source && muidLegal destination
  | .putMessageReport _ hdr destination _ _ _ _ _ => muidLegal hdr.source && muidLegal destination
  | .putMessageReportReply _ hdr destination _ _ _ _ => muidLegal hdr.source && muidLegal destination
  | .putEndOfMessageReport _ hdr destination => muidLegal hdr.source && muidLegal destination
  | .generateMuid => true
  | .putMuid muid => muidLegal muid
  | .getMuid => true
  | .putMuidWithPosition _ muid => muidLegal muid
  | .getMuidWithPosition _ => true

end Sys2Proof
end

