-- ==== Sys2Proof/Safety.lean ====
section
/-! DEFINITION. What counts as a good run (R557), the invariant of the machine, and the words the statements are
written in: the operand record of a put (R100), a message held in the buffer, and the three outcomes a put, a get
and an is can have. Nothing here is used by the machine. -/

namespace Sys2Proof.Machine

/-- A run is good when its fault mark is clear (R557). -/
abbrev GoodRun (s : State) : Prop := s.faultMark = false

/-! ## The invariant -/

/-- Statuses that are errors (R502). -/
def Status.isError : Status → Bool
  | .ok => false
  | .parseError => false
  | .capacityError => true
  | .overflowError => true
  | .illegalRequest => true

/-- What the response port can hold (R40, R41, R36, R160, R502, R503): nothing, or one status with the fields that
go with it; `count` is a multiple of 4 within the buffer, `muid` is below `2^28`. -/
structure Response.Legal (cap : Nat) (r : Response) : Prop where
  /-- No field holds a value without a status. -/
  statusHeld : r.status = none → r = Response.unheld
  /-- An error leaves the status and nothing else. -/
  errorAlone : ∀ st, r.status = some st → st.isError = true → r = Response.ofStatus st
  /-- A parse failure leaves `count = 0` and nothing else. -/
  parseAlone : r.status = some .parseError → r = Response.parseFailed
  /-- A `count` is a multiple of 4 that fits the buffer. -/
  countLegal : ∀ c, r.count = some c → c.toNat % 4 = 0 ∧ c.toNat ≤ cap
  /-- Decoded fields come with `OK` and a `count` of at least 16. -/
  fieldsLegal : ∀ f, r.fields = some f → r.status = some .ok ∧ ∃ c, r.count = some c ∧ 16 ≤ c.toNat
  /-- A MUID result has bits 31:28 zero (R36). -/
  muidLegal : ∀ m, r.muid = some m → m.toNat < 2 ^ 28

/-- The invariant every step keeps: the memory is in canonical form and lies inside the buffer, the response is
legal, and an error status stands beside a set fault mark (R507). -/
structure State.Inv (s : State) : Prop where
  memWf : s.mem.wf
  memInside : ∀ c ∈ s.mem, c.1 < s.cap.val
  rspLegal : s.rsp.Legal s.cap.val
  markSet : ∀ st, s.rsp.status = some st → st.isError = true → s.faultMark = true

/-! ## The operand record of a put -/

/-- The kinds whose destination is fixed to broadcast (R96, column "dest"). -/
def broadcastKind : Kind → Bool
  | .discovery => true
  | .discoveryReply => false
  | .invalidateMuid => true
  | .ack => false
  | .nak => false
  | .initiateProtocolNegotiation => false
  | .initiateProtocolNegotiationReply => false
  | .setProtocolType => false
  | .confirmProtocolType => false
  | .confirmProtocolTypeReply => false
  | .confirmProtocolTypeEstablished => false
  | .profile => false
  | .profileReply => false
  | .profileEnabledReport => true
  | .profileDisabledReport => true
  | .profileAdded => true
  | .profileRemoved => true
  | .profileSpecificData => false
  | .propertyExchangeCapabilities => false
  | .propertyExchangeCapabilitiesReply => false
  | .getPropertyData => false
  | .getPropertyDataReply => false
  | .setPropertyData => false
  | .setPropertyDataReply => false
  | .subscription => false
  | .subscriptionReply => false
  | .processCapabilities => false
  | .processCapabilitiesReply => false
  | .messageReport => false
  | .messageReportReply => false
  | .endOfMessageReport => false

/-- The destination operand of a put, where the kind has one (R100). -/
def destinationOperand (a : Args) (k : Kind) : Option Word :=
  if broadcastKind k then none else some a.destination

/-- The payload operands of each put, named, in the order of its layout rule (R100). -/
def payloadOperands (a : Args) : Kind → List (FieldName × FieldValue)
  | .discovery =>
      [(.manufacturerId, .bytes a.manufacturerId.toList), (.deviceFamily, .u16 a.deviceFamily),
        (.deviceFamilyModelNumber, .u16 a.deviceFamilyModelNumber),
        (.softwareRevisionLevel, .bytes a.softwareRevisionLevel.toList), (.capability, .u8 a.capability),
        (.maxSysexMessageSize, .u32 a.maxSysexMessageSize)]
  | .discoveryReply =>
      [(.manufacturerId, .bytes a.manufacturerId.toList), (.deviceFamily, .u16 a.deviceFamily),
        (.deviceFamilyModelNumber, .u16 a.deviceFamilyModelNumber),
        (.softwareRevisionLevel, .bytes a.softwareRevisionLevel.toList), (.capability, .u8 a.capability),
        (.maxSysexMessageSize, .u32 a.maxSysexMessageSize)]
  | .invalidateMuid => [(.targetMuid, .muid a.targetMuid)]
  | .ack =>
      [(.origTransaction, .u8 a.origTransaction), (.statusCode, .u8 a.statusCode),
        (.statusData, .u8 a.statusData), (.details, .bytes a.details.toList),
        (.message, .records .w16 (recordsOfBytes a.message))]
  | .nak => []
  | .initiateProtocolNegotiation =>
      [(.authorityLevel, .u8 a.authorityLevel),
        (.supportedProtocols, .records .w8 (recordsOf a.supportedProtocols))]
  | .initiateProtocolNegotiationReply =>
      [(.authorityLevel, .u8 a.authorityLevel),
        (.supportedProtocols, .records .w8 (recordsOf a.supportedProtocols))]
  | .setProtocolType =>
      [(.authorityLevel, .u8 a.authorityLevel), (.protocolType, .bytes a.protocolType.toList)]
  | .confirmProtocolType => [(.authorityLevel, .u8 a.authorityLevel), (.testData, .pattern true)]
  | .confirmProtocolTypeReply => [(.authorityLevel, .u8 a.authorityLevel), (.testData, .pattern true)]
  | .confirmProtocolTypeEstablished => [(.authorityLevel, .u8 a.authorityLevel)]
  | .profile => []
  | .profileReply =>
      [(.enabledProfiles, .records .w16 (recordsOf a.enabledProfiles)),
        (.disabledProfiles, .records .w16 (recordsOf a.disabledProfiles))]
  | .profileEnabledReport => [(.profile, .bytes a.profile.toList), (.channelCount, .u16 a.channelCount)]
  | .profileDisabledReport => [(.profile, .bytes a.profile.toList), (.channelCount, .u16 a.channelCount)]
  | .profileAdded => [(.profile, .bytes a.profile.toList)]
  | .profileRemoved => [(.profile, .bytes a.profile.toList)]
  | .profileSpecificData =>
      [(.profileId, .bytes a.profileId.toList), (.data, .records .w32 (recordsOfBytes a.data))]
  | .propertyExchangeCapabilities =>
      [(.supportedCount, .u8 a.supportedCount), (.major, .u8 a.major), (.minor, .u8 a.minor)]
  | .propertyExchangeCapabilitiesReply =>
      [(.supportedCount, .u8 a.supportedCount), (.major, .u8 a.major), (.minor, .u8 a.minor)]
  | .getPropertyData =>
      [(.requestId, .u8 a.requestId), (.headerData, .records .w16 (recordsOfBytes a.headerData)),
        (.chunkCount, .u16 a.chunkCount), (.nthChunk, .u16 a.nthChunk),
        (.propertyData, .records .w16 (recordsOfBytes a.propertyData))]
  | .getPropertyDataReply =>
      [(.requestId, .u8 a.requestId), (.headerData, .records .w16 (recordsOfBytes a.headerData)),
        (.chunkCount, .u16 a.chunkCount), (.nthChunk, .u16 a.nthChunk),
        (.propertyData, .records .w16 (recordsOfBytes a.propertyData))]
  | .setPropertyData =>
      [(.requestId, .u8 a.requestId), (.headerData, .records .w16 (recordsOfBytes a.headerData)),
        (.chunkCount, .u16 a.chunkCount), (.nthChunk, .u16 a.nthChunk),
        (.propertyData, .records .w16 (recordsOfBytes a.propertyData))]
  | .setPropertyDataReply =>
      [(.requestId, .u8 a.requestId), (.headerData, .records .w16 (recordsOfBytes a.headerData)),
        (.chunkCount, .u16 a.chunkCount), (.nthChunk, .u16 a.nthChunk),
        (.propertyData, .records .w16 (recordsOfBytes a.propertyData))]
  | .subscription =>
      [(.requestId, .u8 a.requestId), (.headerData, .records .w16 (recordsOfBytes a.headerData)),
        (.chunkCount, .u16 a.chunkCount), (.nthChunk, .u16 a.nthChunk),
        (.propertyData, .records .w16 (recordsOfBytes a.propertyData))]
  | .subscriptionReply =>
      [(.requestId, .u8 a.requestId), (.headerData, .records .w16 (recordsOfBytes a.headerData)),
        (.chunkCount, .u16 a.chunkCount), (.nthChunk, .u16 a.nthChunk),
        (.propertyData, .records .w16 (recordsOfBytes a.propertyData))]
  | .processCapabilities => []
  | .processCapabilitiesReply => [(.supportedFeatures, .u8 a.supportedFeatures)]
  | .messageReport =>
      [(.dataControl, .u8 a.dataControl), (.systemMessages, .u8 a.systemMessages),
        (.otherMessages, .u8 a.otherMessages),
        (.channelControllerMessages, .u8 a.channelControllerMessages),
        (.noteDataMessages, .u8 a.noteDataMessages)]
  | .messageReportReply =>
      [(.systemMessages, .u8 a.systemMessages), (.otherMessages, .u8 a.otherMessages),
        (.channelControllerMessages, .u8 a.channelControllerMessages),
        (.noteDataMessages, .u8 a.noteDataMessages)]
  | .endOfMessageReport => []

/-- The header and payload of the message a put of kind `k` with operands `a` writes, in stream order (R150,
R151). -/
def bodyOf (k : Kind) (a : Args) : List Byte :=
  emitHeader k a.header (destinationOperand a k) ++ emitFields ((payloadOperands a k).map Prod.snd)

/-- The length `L` of that message (R102). -/
def lengthOf (k : Kind) (a : Args) : Nat := messageLength (bodyOf k a).length

/-- The record a get recovers from that message (R159): the operands, with the broadcast MUID as the destination
of a broadcast kind and `true` for a test pattern. -/
def recordOf (k : Kind) (a : Args) : Record :=
  { deviceId := a.deviceId, version := a.version, source := a.source
    destination := (destinationOperand a k).getD broadcastMuid
    payload := payloadOperands a k }

/-! ## A message in the buffer -/

/-- The stream of the buffer begins with these bytes. -/
def StreamBegins (m : Memory) (bytes : List Byte) : Prop :=
  ∀ p (h : p < bytes.length), m.read (addrOf p) = bytes[p]

/-- The buffer holds, within `len`, a message with this header and payload: the bytes, and `0xF7` at address
`L - 4`. Padding is not looked at (R157, R158). -/
def MessageHeld (m : Memory) (len : Nat) (body : List Byte) : Prop :=
  StreamBegins m body ∧ 4 * ((body.length + 4) / 4) ≤ len
    ∧ m.read (4 * ((body.length + 4) / 4) - 4) = 0xF7

/-- The first 14 stream bytes of a message to be written (R150). -/
def headerBytes (sid : Byte) (h : Header) (destination : Word) : List Byte :=
  [0xF0, 0x7E, h.deviceId, 0x0D, sid, h.version] ++ muidWire h.source ++ muidWire destination

/-- The parts of a received header that a get does not check (R158): any bytes. -/
structure WireHeader where
  deviceId : Byte
  version : Byte
  source : Bytes 4
  destination : Bytes 4

/-- The first 14 stream bytes of a received message (R150). -/
def WireHeader.bytes (w : WireHeader) (sid : Byte) : List Byte :=
  [0xF0, 0x7E, w.deviceId, 0x0D, sid, w.version] ++ w.source.toList ++ w.destination.toList

/-- `MuidFrom` of four wire bytes in stream order (R136). -/
def muidOfWire (b : Bytes 4) : Word := muidFrom b[0] b[1] b[2] b[3]

/-- The record of a received header and payload (R101). -/
def WireHeader.record (w : WireHeader) (payload : List (FieldName × FieldValue)) : Record :=
  { deviceId := w.deviceId, version := w.version, source := muidOfWire w.source
    destination := muidOfWire w.destination, payload := payload }

/-! ## The outcomes of the message operations -/

/-- The state an error leaves (R502, R507): the status alone in the response, the mark set, nothing else. -/
def errorState (s : State) (st : Status) : State :=
  { s with
    rsp := { status := some st, count := none, flag := none, muid := none, fields := none }
    faultMark := true }

/-- What a successful put with this header and payload leaves (R74, R150 to R154): the message, zero padding and
the terminator at addresses `0 .. L-1`, every other byte as before, `count = L`, nothing else changed. -/
structure PutDone (s t : State) (body : List Byte) : Prop where
  response : t.rsp = { status := some .ok, count := some (BitVec.ofNat 32 (4 * ((body.length + 4) / 4))),
                       flag := none, muid := none, fields := none }
  message : StreamBegins t.mem body
  padding : ∀ p, body.length ≤ p → p + 1 < 4 * ((body.length + 4) / 4) → t.mem.read (addrOf p) = 0x00
  terminator : t.mem.read (4 * ((body.length + 4) / 4) - 4) = 0xF7
  frame : ∀ a, 4 * ((body.length + 4) / 4) ≤ a → t.mem.read a = s.mem.read a
  rest : t.cap = s.cap ∧ t.faultMark = s.faultMark ∧ t.pending = s.pending ∧ t.draws = s.draws

/-- The outcomes of a put (R154, R508): `OVERFLOW_ERROR` when an operand is out of range, else `CAPACITY_ERROR` when
`len > BUF_CAP` or `L > len`, else the message. -/
def PutOutcome (inRange : Prop) (len : Word) (body : List Byte) (s : State)
    (o : Host.Outcome State Fault Refusal) : Prop :=
  (¬ inRange → o = .next (errorState s .overflowError)) ∧
  (inRange → (s.cap.val < len.toNat ∨ len.toNat < 4 * ((body.length + 4) / 4)) →
    o = .next (errorState s .capacityError)) ∧
  (inRange → len.toNat ≤ s.cap.val → 4 * ((body.length + 4) / 4) ≤ len.toNat →
    ∃ t, o = .next t ∧ PutDone s t body)

/-- The outcomes of a get (R157): `CAPACITY_ERROR` when `len > BUF_CAP`; the fields and `count = L` when the buffer
holds a message of the form `wire w`; `PARSE_ERROR` when it holds none. The buffer stays as it is. -/
def GetOutcome {W : Type} (valid : W → Prop) (wire : W → List Byte) (result : W → Record) (len : Word) (s : State)
    (o : Host.Outcome State Fault Refusal) : Prop :=
  (s.cap.val < len.toNat → o = .next (errorState s .capacityError)) ∧
  (∀ w, valid w → len.toNat ≤ s.cap.val → MessageHeld s.mem len.toNat (wire w) →
    o = .next { s with
      rsp := { status := some .ok, count := some (BitVec.ofNat 32 (4 * (((wire w).length + 4) / 4))),
               flag := none, muid := none, fields := some (result w) } }) ∧
  (len.toNat ≤ s.cap.val → (∀ w, valid w → ¬ MessageHeld s.mem len.toNat (wire w)) →
    o = .next { s with
      rsp := { status := some .parseError, count := some 0, flag := none, muid := none, fields := none } })

/-- The outcomes of an is (R156): `CAPACITY_ERROR` when `len > BUF_CAP`, else the flag, nothing else changed. -/
def IsOutcome (sid : Byte) (len : Word) (s : State) (o : Host.Outcome State Fault Refusal) : Prop :=
  (s.cap.val < len.toNat → o = .next (errorState s .capacityError)) ∧
  (len.toNat ≤ s.cap.val →
    o = .next { s with
      rsp := { status := some .ok, count := none
               flag := some (decide (8 ≤ len.toNat ∧ s.mem.read 3 = 0xF0 ∧ s.mem.read 2 = 0x7E
                 ∧ s.mem.read 0 = 0x0D ∧ s.mem.read 7 = sid))
               muid := none, fields := none } })

/-! ## The rules of one instruction -/

/-- The `n` bytes of a number, most significant first (R67). -/
def bigEndian : Nat → Nat → List Byte
  | 0, _ => []
  | n + 1, v => BitVec.ofNat 8 (v / 256 ^ n) :: bigEndian n v

/-- What a `put_<kind>` rule says: its request code `op`, the operand range, the header and payload, which take `q`
stream bytes, and the outcomes. -/
def PutRule (op : Half) (q : Nat) (inRange : Prop) (body : List Byte) (i : Instr) (len : Word) (s : State) : Prop :=
  (encode i).op = op ∧ body.length = q ∧ PutOutcome inRange len body s (exec i s)

/-- What a `get_<kind>` rule says: its request code `op`, the wire forms of the kind, the record each gives, and the
outcomes. -/
def GetRule {W : Type} (op : Half) (valid : W → Prop) (wire : W → List Byte) (result : W → Record) (i : Instr)
    (len : Word) (s : State) : Prop :=
  (encode i).op = op ∧ GetOutcome valid wire result len s (exec i s)

/-- What an `is_<kind>` rule says: its request code `op`, the outcomes for its Sub-ID#2 `sid`, and that no other
`is_` returns 1 on the same buffer. -/
def IsRule (op : Half) (sid : Byte) (i : Instr) (len : Word) (s : State) : Prop :=
  (encode i).op = op ∧ IsOutcome sid len s (exec i s) ∧
  ∀ k len' t u, exec i s = .next t → t.rsp.flag = some true → exec (isOf len' k) s = .next u →
    u.rsp.flag = some true → isOf len k = i

/-! ## Lengths -/

/-- `q` of each kind, as the table of R102 gives it. -/
def bodyLength (k : Kind) (a : Args) : Nat :=
  match k with
  | .discovery => 30
  | .discoveryReply => 30
  | .invalidateMuid => 18
  | .ack => 24 + a.message.length
  | .nak => 14
  | .initiateProtocolNegotiation => 16 + 5 * a.supportedProtocols.length
  | .initiateProtocolNegotiationReply => 16 + 5 * a.supportedProtocols.length
  | .setProtocolType => 20
  | .confirmProtocolType => 63
  | .confirmProtocolTypeReply => 63
  | .confirmProtocolTypeEstablished => 15
  | .profile => 14
  | .profileReply => 18 + 5 * a.enabledProfiles.length + 5 * a.disabledProfiles.length
  | .profileEnabledReport => 21
  | .profileDisabledReport => 21
  | .profileAdded => 19
  | .profileRemoved => 19
  | .profileSpecificData => 23 + a.data.length
  | .propertyExchangeCapabilities => 17
  | .propertyExchangeCapabilitiesReply => 17
  | .getPropertyData => 23 + a.headerData.length + a.propertyData.length
  | .getPropertyDataReply => 23 + a.headerData.length + a.propertyData.length
  | .setPropertyData => 23 + a.headerData.length + a.propertyData.length
  | .setPropertyDataReply => 23 + a.headerData.length + a.propertyData.length
  | .subscription => 23 + a.headerData.length + a.propertyData.length
  | .subscriptionReply => 23 + a.headerData.length + a.propertyData.length
  | .processCapabilities => 14
  | .processCapabilitiesReply => 15
  | .messageReport => 19
  | .messageReportReply => 18
  | .endOfMessageReport => 14

/-- The length of a message of each kind with empty lists, the last column of the table of R102: no message of the
kind is shorter. -/
def minimumLength : Kind → Nat
  | .discovery => 32
  | .discoveryReply => 32
  | .invalidateMuid => 20
  | .ack => 28
  | .nak => 16
  | .initiateProtocolNegotiation => 20
  | .initiateProtocolNegotiationReply => 20
  | .setProtocolType => 24
  | .confirmProtocolType => 64
  | .confirmProtocolTypeReply => 64
  | .confirmProtocolTypeEstablished => 16
  | .profile => 16
  | .profileReply => 20
  | .profileEnabledReport => 24
  | .profileDisabledReport => 24
  | .profileAdded => 20
  | .profileRemoved => 20
  | .profileSpecificData => 24
  | .propertyExchangeCapabilities => 20
  | .propertyExchangeCapabilitiesReply => 20
  | .getPropertyData => 24
  | .getPropertyDataReply => 24
  | .setPropertyData => 24
  | .setPropertyDataReply => 24
  | .subscription => 24
  | .subscriptionReply => 24
  | .processCapabilities => 16
  | .processCapabilitiesReply => 16
  | .messageReport => 20
  | .messageReportReply => 20
  | .endOfMessageReport => 16

/-! ## Causes -/

/-- Some MUID operand of a put is `2^28` or more, or some list has more records than its count holds (R505). -/
def PutOverflow (k : Kind) (a : Args) : Prop :=
  2 ^ 28 ≤ a.source.toNat ∨ (broadcastKind k = false ∧ 2 ^ 28 ≤ a.destination.toNat) ∨
  (∃ n m, (n, FieldValue.muid m) ∈ payloadOperands a k ∧ 2 ^ 28 ≤ m.toNat) ∨
  (∃ n w rs, (n, FieldValue.records w rs) ∈ payloadOperands a k ∧ 2 ^ countBits w ≤ rs.length)

/-- Some byte of the positional MUID at `pos` lies at or above `BUF_CAP` (R133, R134). -/
def PositionOutside (s : State) (pos : Word) : Prop := ∃ i < 4, s.cap.val ≤ addrOf (pos.toNat + i)

/-- The buffer holds, within `len`, a message of kind `k` that a get decodes (R157). -/
def Decodable (s : State) (len : Word) (k : Kind) : Prop := (parseMessage k len.toNat s.mem).isSome = true

/-- The status R508 gives an instruction: the first cause that applies, in its order. -/
def StatusRule (i : Instr) (s : State) (st : Status) : Prop :=
  (∀ len k, i = isOf len k →
    (s.cap.val < len.toNat → st = .capacityError) ∧ (len.toNat ≤ s.cap.val → st = .ok)) ∧
  (∀ len k, i = getOf len k →
    (s.cap.val < len.toNat → st = .capacityError) ∧
    (len.toNat ≤ s.cap.val → ¬ Decodable s len k → st = .parseError) ∧
    (len.toNat ≤ s.cap.val → Decodable s len k → st = .ok)) ∧
  (∀ len a k, i = putOf len a k →
    (PutOverflow k a → st = .overflowError) ∧
    (¬ PutOverflow k a → s.cap.val < len.toNat → st = .capacityError) ∧
    (¬ PutOverflow k a → len.toNat ≤ s.cap.val → len.toNat < lengthOf k a → st = .capacityError) ∧
    (¬ PutOverflow k a → len.toNat ≤ s.cap.val → lengthOf k a ≤ len.toNat → st = .ok)) ∧
  (i = .generateMuid → st = .ok) ∧
  (∀ m, i = .putMuid m → (2 ^ 28 ≤ m.toNat → st = .overflowError) ∧ (m.toNat < 2 ^ 28 → st = .ok)) ∧
  (i = .getMuid → st = .ok) ∧
  (∀ p m, i = .putMuidWithPosition p m →
    (2 ^ 28 ≤ m.toNat → st = .overflowError) ∧
    (m.toNat < 2 ^ 28 → PositionOutside s p → st = .capacityError) ∧
    (m.toNat < 2 ^ 28 → ¬ PositionOutside s p → st = .ok)) ∧
  (∀ p, i = .getMuidWithPosition p →
    (PositionOutside s p → st = .capacityError) ∧ (¬ PositionOutside s p → st = .ok))

/-! ## Request codes -/

/-- The 31 Sub-ID#2 values of R96, in its row order. -/
def subIdValues : List Byte :=
  [0x70, 0x71, 0x7E, 0x7D, 0x7F, 0x10, 0x11, 0x12, 0x13, 0x14, 0x15,
   0x20, 0x21, 0x24, 0x25, 0x26, 0x27, 0x2F, 0x30, 0x31, 0x34, 0x35,
   0x36, 0x37, 0x38, 0x39, 0x40, 0x41, 0x42, 0x43, 0x44]

/-- The legal request codes (R93). -/
def LegalCode (op : Half) : Prop :=
  op.toNat / 1024 = 0 ∧
    ((op.toNat / 256 % 4 ≠ 3 ∧ BitVec.ofNat 8 (op.toNat % 256) ∈ subIdValues) ∨
     (op.toNat / 256 % 4 = 3 ∧ op.toNat % 256 ≤ 4))

end Sys2Proof.Machine
end

