-- ==== Sys2Proof/Certificates/Slice0/Obligations.lean ====
section
/-! DEFINITION. The statements for the provers, one definition each. Every next state is written out: an equation with
a record update says what every field of the state is afterwards. -/

open Sys2Proof Sys2Proof.Machine

/-- A step serves the request the host has issued: when it decodes to `i`, the step is `exec i`, in the state
with the request taken (R556, R73; how the host's program is held is the model's choice, log 4). -/
def Obligations.StepServesTheDecodedRequest : Prop :=
  ∀ (s : State) (rest : List HostStep) (r : Request) (i : Instr),
    s.pending = .request r :: rest → decode r = .ok i → step s = exec i { s with pending := rest }

/-- A code outside the legal ones raises `ILLEGAL_REQUEST` and does nothing else; no legal code raises it
(R506). -/
def Obligations.IllegalCodeRaisesIllegalRequest : Prop :=
  ∀ (s : State) (rest : List HostStep) (r : Request), s.pending = .request r :: rest →
    (¬ LegalCode r.op → step s = .next (errorState { s with pending := rest } .illegalRequest)) ∧
    (LegalCode r.op → ∀ t, step s = .next t → t.rsp.status ≠ some .illegalRequest)

/-- Which codes are legal, how many there are, and what every other code does (R93). -/
def Obligations.RequestDecodingIsTotal : Prop :=
  (∀ r : Request, (∃ i, decode r = .ok i) ↔ LegalCode r.op) ∧
  (∃ codes : List Half, codes.Nodup ∧ codes.length = 98 ∧ ∀ op, op ∈ codes ↔ LegalCode op) ∧
  (∀ (s : State) (rest : List HostStep) (r : Request), s.pending = .request r :: rest → ¬ LegalCode r.op →
    step s = .next (errorState { s with pending := rest } .illegalRequest))

/-- For every instruction and all its operands, decoding its request gives it back. -/
def Obligations.DecodeOfEncodeIsTheInstruction : Prop :=
  ∀ i : Instr, decode (encode i) = .ok i

/-- Each legal code has one meaning (R90, R93). -/
def Obligations.EncodeOfDecodeHasTheSameCode : Prop :=
  ∀ (r : Request) (i : Instr), decode r = .ok i → (encode i).op = r.op ∧ decode (encode i) = .ok i

/-- Codes written out bit by bit from R90 and R96, one or more for each family. -/
def Obligations.WrittenOutCodesDecode : Prop :=
  ∀ (len pos muid : Word) (a : Args),
    decode { op := 0b0000000001110000, len := len, pos := pos, muid := muid, args := a } = .ok (.isDiscovery len) ∧
    decode { op := 0b0000000100010010, len := len, pos := pos, muid := muid, args := a } =
      .ok (.getSetProtocolType len) ∧
    decode { op := 0b0000000100100000, len := len, pos := pos, muid := muid, args := a } = .ok (.getProfile len) ∧
    decode { op := 0b0000000000110100, len := len, pos := pos, muid := muid, args := a } =
      .ok (.isGetPropertyData len) ∧
    decode { op := 0b0000001001000100, len := len, pos := pos, muid := muid, args := a } =
      .ok (.putEndOfMessageReport len
        { deviceId := a.deviceId, version := a.version, source := a.source } a.destination) ∧
    decode { op := 0b0000001100000000, len := len, pos := pos, muid := muid, args := a } = .ok .generateMuid ∧
    decode { op := 0b0000001100000011, len := len, pos := pos, muid := muid, args := a } =
      .ok (.putMuidWithPosition pos muid)

/-- The table of R96, columns kind, Sub-ID#2 and dest (`true` for `bc`). -/
def Obligations.SubIdMapOfTheKinds : Prop :=
  Kind.all.map (fun k => (k, k.subId, broadcastKind k)) =
    [(.discovery, 0x70, true),
     (.discoveryReply, 0x71, false),
     (.invalidateMuid, 0x7E, true),
     (.ack, 0x7D, false),
     (.nak, 0x7F, false),
     (.initiateProtocolNegotiation, 0x10, false),
     (.initiateProtocolNegotiationReply, 0x11, false),
     (.setProtocolType, 0x12, false),
     (.confirmProtocolType, 0x13, false),
     (.confirmProtocolTypeReply, 0x14, false),
     (.confirmProtocolTypeEstablished, 0x15, false),
     (.profile, 0x20, false),
     (.profileReply, 0x21, false),
     (.profileEnabledReport, 0x24, true),
     (.profileDisabledReport, 0x25, true),
     (.profileAdded, 0x26, true),
     (.profileRemoved, 0x27, true),
     (.profileSpecificData, 0x2F, false),
     (.propertyExchangeCapabilities, 0x30, false),
     (.propertyExchangeCapabilitiesReply, 0x31, false),
     (.getPropertyData, 0x34, false),
     (.getPropertyDataReply, 0x35, false),
     (.setPropertyData, 0x36, false),
     (.setPropertyDataReply, 0x37, false),
     (.subscription, 0x38, false),
     (.subscriptionReply, 0x39, false),
     (.processCapabilities, 0x40, false),
     (.processCapabilitiesReply, 0x41, false),
     (.messageReport, 0x42, false),
     (.messageReportReply, 0x43, false),
     (.endOfMessageReport, 0x44, false)] ∧
  ∀ k : Kind, k ∈ Kind.all

/-- The 225 reserved Sub-ID#2 values (R97). -/
def Obligations.ReservedSubIdsBelongToNoKind : Prop :=
  ((List.range 256).filter (fun n => decide (BitVec.ofNat 8 n ∉ subIdValues))).length = 225 ∧
  ∀ b : Byte, b ∉ subIdValues →
    (∀ (k : Kind) (len : Word) (s : State), s.mem.read 7 = b → len.toNat ≤ s.cap.val →
      exec (isOf len k) s = .next { s with
        rsp := { status := some .ok, count := none, flag := some false, muid := none, fields := none } }) ∧
    ¬ LegalCode (opCode .is b) ∧ ¬ LegalCode (opCode .get b) ∧ ¬ LegalCode (opCode .put b)

/-- The Sub-ID#2 values are distinct, so no buffer satisfies two `is_` predicates (R98). -/
def Obligations.SubIdSpaceIsAPartition : Prop :=
  (Kind.all.map Kind.subId).Nodup ∧ Kind.all.length = 31 ∧ (∀ k : Kind, k ∈ Kind.all) ∧
  ∀ (j k : Kind) (len len' : Word) (s s' t t' : State), s.mem = s'.mem →
    exec (isOf len j) s = .next t → exec (isOf len' k) s' = .next t' →
    t.rsp.flag = some true → t'.rsp.flag = some true → j = k

/-- The puts of the management kinds (R201, R205, R209, R213, R217): `PutRule op q inRange body` gives the code,
the size, the ranges and the header and payload; `PutOutcome` and `PutDone` (Safety.lean) give the errors, the
memory and the frame. -/
def Obligations.ManagementPutsWriteTheMessage : Prop :=
  (∀ (len : Word) (hdr : Header) (manufacturerId : Bytes 3) (deviceFamily deviceFamilyModelNumber : Half)
    (softwareRevisionLevel : Bytes 4) (capability : Byte) (maxSysexMessageSize : Word) (s : State),
    PutRule 0x0270 30 (hdr.source.toNat < 2 ^ 28)
      (headerBytes 0x70 hdr 0x0FFFFFFF ++ manufacturerId.toList ++ bigEndian 2 deviceFamily.toNat ++ bigEndian 2
        deviceFamilyModelNumber.toNat ++ softwareRevisionLevel.toList ++ [capability] ++ bigEndian 4
        maxSysexMessageSize.toNat)
      (.putDiscovery len hdr manufacturerId deviceFamily deviceFamilyModelNumber softwareRevisionLevel
        capability maxSysexMessageSize) len s) ∧
  (∀ (len : Word) (hdr : Header) (destination : Word) (manufacturerId : Bytes 3) (deviceFamily
    deviceFamilyModelNumber : Half) (softwareRevisionLevel : Bytes 4) (capability : Byte) (maxSysexMessageSize :
    Word) (s : State),
    PutRule 0x0271 30 (hdr.source.toNat < 2 ^ 28 ∧ destination.toNat < 2 ^ 28)
      (headerBytes 0x71 hdr destination ++ manufacturerId.toList ++ bigEndian 2 deviceFamily.toNat ++ bigEndian
        2 deviceFamilyModelNumber.toNat ++ softwareRevisionLevel.toList ++ [capability] ++ bigEndian 4
        maxSysexMessageSize.toNat)
      (.putDiscoveryReply len hdr destination manufacturerId deviceFamily deviceFamilyModelNumber
        softwareRevisionLevel capability maxSysexMessageSize) len s) ∧
  (∀ (len : Word) (hdr : Header) (targetMuid : Word) (s : State),
    PutRule 0x027E 18 (hdr.source.toNat < 2 ^ 28 ∧ targetMuid.toNat < 2 ^ 28)
      (headerBytes 0x7E hdr 0x0FFFFFFF ++ muidWire targetMuid)
      (.putInvalidateMuid len hdr targetMuid) len s) ∧
  (∀ (len : Word) (hdr : Header) (destination : Word) (origTransaction statusCode statusData : Byte) (details :
    Bytes 5) (message : List Byte) (s : State),
    PutRule 0x027D (24 + message.length) (hdr.source.toNat < 2 ^ 28 ∧ destination.toNat < 2 ^ 28 ∧
      message.length < 2 ^ 16)
      (headerBytes 0x7D hdr destination ++ [origTransaction] ++ [statusCode] ++ [statusData] ++ details.toList
        ++ bigEndian 2 message.length ++ message)
      (.putAck len hdr destination origTransaction statusCode statusData details message) len s) ∧
  (∀ (len : Word) (hdr : Header) (destination : Word) (s : State),
    PutRule 0x027F 14 (hdr.source.toNat < 2 ^ 28 ∧ destination.toNat < 2 ^ 28)
      (headerBytes 0x7F hdr destination)
      (.putNak len hdr destination) len s)

/-- The puts of the protocol negotiation kinds (R251, R255, R259, R272, R276, R280): `PutRule op q inRange body`
gives the code, the size, the ranges and the header and payload; `PutOutcome` and `PutDone` (Safety.lean) give
the errors, the memory and the frame. -/
def Obligations.ProtocolPutsWriteTheMessage : Prop :=
  (∀ (len : Word) (hdr : Header) (destination : Word) (authorityLevel : Byte) (supportedProtocols : List (Bytes
    5)) (s : State),
    PutRule 0x0210 (16 + 5 * supportedProtocols.length) (hdr.source.toNat < 2 ^ 28 ∧ destination.toNat < 2 ^ 28
      ∧ supportedProtocols.length < 2 ^ 8)
      (headerBytes 0x10 hdr destination ++ [authorityLevel] ++ bigEndian 1 supportedProtocols.length ++
        (supportedProtocols.map Vector.toList).flatten)
      (.putInitiateProtocolNegotiation len hdr destination authorityLevel supportedProtocols) len s) ∧
  (∀ (len : Word) (hdr : Header) (destination : Word) (authorityLevel : Byte) (supportedProtocols : List (Bytes
    5)) (s : State),
    PutRule 0x0211 (16 + 5 * supportedProtocols.length) (hdr.source.toNat < 2 ^ 28 ∧ destination.toNat < 2 ^ 28
      ∧ supportedProtocols.length < 2 ^ 8)
      (headerBytes 0x11 hdr destination ++ [authorityLevel] ++ bigEndian 1 supportedProtocols.length ++
        (supportedProtocols.map Vector.toList).flatten)
      (.putInitiateProtocolNegotiationReply len hdr destination authorityLevel supportedProtocols) len s) ∧
  (∀ (len : Word) (hdr : Header) (destination : Word) (authorityLevel : Byte) (protocolType : Bytes 5) (s :
    State),
    PutRule 0x0212 20 (hdr.source.toNat < 2 ^ 28 ∧ destination.toNat < 2 ^ 28)
      (headerBytes 0x12 hdr destination ++ [authorityLevel] ++ protocolType.toList)
      (.putSetProtocolType len hdr destination authorityLevel protocolType) len s) ∧
  (∀ (len : Word) (hdr : Header) (destination : Word) (authorityLevel : Byte) (s : State),
    PutRule 0x0213 63 (hdr.source.toNat < 2 ^ 28 ∧ destination.toNat < 2 ^ 28)
      (headerBytes 0x13 hdr destination ++ [authorityLevel] ++ (List.range 48).map (BitVec.ofNat 8))
      (.putConfirmProtocolType len hdr destination authorityLevel) len s) ∧
  (∀ (len : Word) (hdr : Header) (destination : Word) (authorityLevel : Byte) (s : State),
    PutRule 0x0214 63 (hdr.source.toNat < 2 ^ 28 ∧ destination.toNat < 2 ^ 28)
      (headerBytes 0x14 hdr destination ++ [authorityLevel] ++ (List.range 48).map (BitVec.ofNat 8))
      (.putConfirmProtocolTypeReply len hdr destination authorityLevel) len s) ∧
  (∀ (len : Word) (hdr : Header) (destination : Word) (authorityLevel : Byte) (s : State),
    PutRule 0x0215 15 (hdr.source.toNat < 2 ^ 28 ∧ destination.toNat < 2 ^ 28)
      (headerBytes 0x15 hdr destination ++ [authorityLevel])
      (.putConfirmProtocolTypeEstablished len hdr destination authorityLevel) len s)

/-- The puts of the profile kinds (R301, R305, R309, R313, R317, R321, R325): `PutRule op q inRange body` gives
the code, the size, the ranges and the header and payload; `PutOutcome` and `PutDone` (Safety.lean) give the
errors, the memory and the frame. -/
def Obligations.ProfilePutsWriteTheMessage : Prop :=
  (∀ (len : Word) (hdr : Header) (destination : Word) (s : State),
    PutRule 0x0220 14 (hdr.source.toNat < 2 ^ 28 ∧ destination.toNat < 2 ^ 28)
      (headerBytes 0x20 hdr destination)
      (.putProfile len hdr destination) len s) ∧
  (∀ (len : Word) (hdr : Header) (destination : Word) (enabledProfiles disabledProfiles : List (Bytes 5)) (s :
    State),
    PutRule 0x0221 (18 + 5 * enabledProfiles.length + 5 * disabledProfiles.length) (hdr.source.toNat < 2 ^ 28 ∧
      destination.toNat < 2 ^ 28 ∧ enabledProfiles.length < 2 ^ 16 ∧ disabledProfiles.length < 2 ^ 16)
      (headerBytes 0x21 hdr destination ++ bigEndian 2 enabledProfiles.length ++ (enabledProfiles.map
        Vector.toList).flatten ++ bigEndian 2 disabledProfiles.length ++ (disabledProfiles.map
        Vector.toList).flatten)
      (.putProfileReply len hdr destination enabledProfiles disabledProfiles) len s) ∧
  (∀ (len : Word) (hdr : Header) (profile : Bytes 5) (channelCount : Half) (s : State),
    PutRule 0x0224 21 (hdr.source.toNat < 2 ^ 28)
      (headerBytes 0x24 hdr 0x0FFFFFFF ++ profile.toList ++ bigEndian 2 channelCount.toNat)
      (.putProfileEnabledReport len hdr profile channelCount) len s) ∧
  (∀ (len : Word) (hdr : Header) (profile : Bytes 5) (channelCount : Half) (s : State),
    PutRule 0x0225 21 (hdr.source.toNat < 2 ^ 28)
      (headerBytes 0x25 hdr 0x0FFFFFFF ++ profile.toList ++ bigEndian 2 channelCount.toNat)
      (.putProfileDisabledReport len hdr profile channelCount) len s) ∧
  (∀ (len : Word) (hdr : Header) (profile : Bytes 5) (s : State),
    PutRule 0x0226 19 (hdr.source.toNat < 2 ^ 28)
      (headerBytes 0x26 hdr 0x0FFFFFFF ++ profile.toList)
      (.putProfileAdded len hdr profile) len s) ∧
  (∀ (len : Word) (hdr : Header) (profile : Bytes 5) (s : State),
    PutRule 0x0227 19 (hdr.source.toNat < 2 ^ 28)
      (headerBytes 0x27 hdr 0x0FFFFFFF ++ profile.toList)
      (.putProfileRemoved len hdr profile) len s) ∧
  (∀ (len : Word) (hdr : Header) (destination : Word) (profileId : Bytes 5) (data : List Byte) (s : State),
    PutRule 0x022F (23 + data.length) (hdr.source.toNat < 2 ^ 28 ∧ destination.toNat < 2 ^ 28 ∧ data.length < 2
      ^ 32)
      (headerBytes 0x2F hdr destination ++ profileId.toList ++ bigEndian 4 data.length ++ data)
      (.putProfileSpecificData len hdr destination profileId data) len s)

/-- The puts of the property exchange kinds (R361, R365, R369, R373, R377, R381, R385, R389): `PutRule op q
inRange body` gives the code, the size, the ranges and the header and payload; `PutOutcome` and `PutDone`
(Safety.lean) give the errors, the memory and the frame. -/
def Obligations.PropertyExchangePutsWriteTheMessage : Prop :=
  (∀ (len : Word) (hdr : Header) (destination : Word) (supportedCount major minor : Byte) (s : State),
    PutRule 0x0230 17 (hdr.source.toNat < 2 ^ 28 ∧ destination.toNat < 2 ^ 28)
      (headerBytes 0x30 hdr destination ++ [supportedCount] ++ [major] ++ [minor])
      (.putPropertyExchangeCapabilities len hdr destination supportedCount major minor) len s) ∧
  (∀ (len : Word) (hdr : Header) (destination : Word) (supportedCount major minor : Byte) (s : State),
    PutRule 0x0231 17 (hdr.source.toNat < 2 ^ 28 ∧ destination.toNat < 2 ^ 28)
      (headerBytes 0x31 hdr destination ++ [supportedCount] ++ [major] ++ [minor])
      (.putPropertyExchangeCapabilitiesReply len hdr destination supportedCount major minor) len s) ∧
  (∀ (len : Word) (hdr : Header) (destination : Word) (requestId : Byte) (headerData : List Byte) (chunkCount
    nthChunk : Half) (propertyData : List Byte) (s : State),
    PutRule 0x0234 (23 + headerData.length + propertyData.length) (hdr.source.toNat < 2 ^ 28 ∧ destination.toNat
      < 2 ^ 28 ∧ headerData.length < 2 ^ 16 ∧ propertyData.length < 2 ^ 16)
      (headerBytes 0x34 hdr destination ++ [requestId] ++ bigEndian 2 headerData.length ++ headerData ++
        bigEndian 2 chunkCount.toNat ++ bigEndian 2 nthChunk.toNat ++ bigEndian 2 propertyData.length ++
        propertyData)
      (.putGetPropertyData len hdr destination requestId headerData chunkCount nthChunk propertyData) len s) ∧
  (∀ (len : Word) (hdr : Header) (destination : Word) (requestId : Byte) (headerData : List Byte) (chunkCount
    nthChunk : Half) (propertyData : List Byte) (s : State),
    PutRule 0x0235 (23 + headerData.length + propertyData.length) (hdr.source.toNat < 2 ^ 28 ∧ destination.toNat
      < 2 ^ 28 ∧ headerData.length < 2 ^ 16 ∧ propertyData.length < 2 ^ 16)
      (headerBytes 0x35 hdr destination ++ [requestId] ++ bigEndian 2 headerData.length ++ headerData ++
        bigEndian 2 chunkCount.toNat ++ bigEndian 2 nthChunk.toNat ++ bigEndian 2 propertyData.length ++
        propertyData)
      (.putGetPropertyDataReply len hdr destination requestId headerData chunkCount nthChunk propertyData) len
        s) ∧
  (∀ (len : Word) (hdr : Header) (destination : Word) (requestId : Byte) (headerData : List Byte) (chunkCount
    nthChunk : Half) (propertyData : List Byte) (s : State),
    PutRule 0x0236 (23 + headerData.length + propertyData.length) (hdr.source.toNat < 2 ^ 28 ∧ destination.toNat
      < 2 ^ 28 ∧ headerData.length < 2 ^ 16 ∧ propertyData.length < 2 ^ 16)
      (headerBytes 0x36 hdr destination ++ [requestId] ++ bigEndian 2 headerData.length ++ headerData ++
        bigEndian 2 chunkCount.toNat ++ bigEndian 2 nthChunk.toNat ++ bigEndian 2 propertyData.length ++
        propertyData)
      (.putSetPropertyData len hdr destination requestId headerData chunkCount nthChunk propertyData) len s) ∧
  (∀ (len : Word) (hdr : Header) (destination : Word) (requestId : Byte) (headerData : List Byte) (chunkCount
    nthChunk : Half) (propertyData : List Byte) (s : State),
    PutRule 0x0237 (23 + headerData.length + propertyData.length) (hdr.source.toNat < 2 ^ 28 ∧ destination.toNat
      < 2 ^ 28 ∧ headerData.length < 2 ^ 16 ∧ propertyData.length < 2 ^ 16)
      (headerBytes 0x37 hdr destination ++ [requestId] ++ bigEndian 2 headerData.length ++ headerData ++
        bigEndian 2 chunkCount.toNat ++ bigEndian 2 nthChunk.toNat ++ bigEndian 2 propertyData.length ++
        propertyData)
      (.putSetPropertyDataReply len hdr destination requestId headerData chunkCount nthChunk propertyData) len
        s) ∧
  (∀ (len : Word) (hdr : Header) (destination : Word) (requestId : Byte) (headerData : List Byte) (chunkCount
    nthChunk : Half) (propertyData : List Byte) (s : State),
    PutRule 0x0238 (23 + headerData.length + propertyData.length) (hdr.source.toNat < 2 ^ 28 ∧ destination.toNat
      < 2 ^ 28 ∧ headerData.length < 2 ^ 16 ∧ propertyData.length < 2 ^ 16)
      (headerBytes 0x38 hdr destination ++ [requestId] ++ bigEndian 2 headerData.length ++ headerData ++
        bigEndian 2 chunkCount.toNat ++ bigEndian 2 nthChunk.toNat ++ bigEndian 2 propertyData.length ++
        propertyData)
      (.putSubscription len hdr destination requestId headerData chunkCount nthChunk propertyData) len s) ∧
  (∀ (len : Word) (hdr : Header) (destination : Word) (requestId : Byte) (headerData : List Byte) (chunkCount
    nthChunk : Half) (propertyData : List Byte) (s : State),
    PutRule 0x0239 (23 + headerData.length + propertyData.length) (hdr.source.toNat < 2 ^ 28 ∧ destination.toNat
      < 2 ^ 28 ∧ headerData.length < 2 ^ 16 ∧ propertyData.length < 2 ^ 16)
      (headerBytes 0x39 hdr destination ++ [requestId] ++ bigEndian 2 headerData.length ++ headerData ++
        bigEndian 2 chunkCount.toNat ++ bigEndian 2 nthChunk.toNat ++ bigEndian 2 propertyData.length ++
        propertyData)
      (.putSubscriptionReply len hdr destination requestId headerData chunkCount nthChunk propertyData) len s)

/-- The puts of the process inquiry kinds (R441, R445, R449, R453, R457): `PutRule op q inRange body` gives the
code, the size, the ranges and the header and payload; `PutOutcome` and `PutDone` (Safety.lean) give the
errors, the memory and the frame. -/
def Obligations.ProcessInquiryPutsWriteTheMessage : Prop :=
  (∀ (len : Word) (hdr : Header) (destination : Word) (s : State),
    PutRule 0x0240 14 (hdr.source.toNat < 2 ^ 28 ∧ destination.toNat < 2 ^ 28)
      (headerBytes 0x40 hdr destination)
      (.putProcessCapabilities len hdr destination) len s) ∧
  (∀ (len : Word) (hdr : Header) (destination : Word) (supportedFeatures : Byte) (s : State),
    PutRule 0x0241 15 (hdr.source.toNat < 2 ^ 28 ∧ destination.toNat < 2 ^ 28)
      (headerBytes 0x41 hdr destination ++ [supportedFeatures])
      (.putProcessCapabilitiesReply len hdr destination supportedFeatures) len s) ∧
  (∀ (len : Word) (hdr : Header) (destination : Word) (dataControl systemMessages otherMessages
    channelControllerMessages noteDataMessages : Byte) (s : State),
    PutRule 0x0242 19 (hdr.source.toNat < 2 ^ 28 ∧ destination.toNat < 2 ^ 28)
      (headerBytes 0x42 hdr destination ++ [dataControl] ++ [systemMessages] ++ [otherMessages] ++
        [channelControllerMessages] ++ [noteDataMessages])
      (.putMessageReport len hdr destination dataControl systemMessages otherMessages channelControllerMessages
        noteDataMessages) len s) ∧
  (∀ (len : Word) (hdr : Header) (destination : Word) (systemMessages otherMessages channelControllerMessages
    noteDataMessages : Byte) (s : State),
    PutRule 0x0243 18 (hdr.source.toNat < 2 ^ 28 ∧ destination.toNat < 2 ^ 28)
      (headerBytes 0x43 hdr destination ++ [systemMessages] ++ [otherMessages] ++ [channelControllerMessages] ++
        [noteDataMessages])
      (.putMessageReportReply len hdr destination systemMessages otherMessages channelControllerMessages
        noteDataMessages) len s) ∧
  (∀ (len : Word) (hdr : Header) (destination : Word) (s : State),
    PutRule 0x0244 14 (hdr.source.toNat < 2 ^ 28 ∧ destination.toNat < 2 ^ 28)
      (headerBytes 0x44 hdr destination)
      (.putEndOfMessageReport len hdr destination) len s)

/-- The gets of the management kinds (R202, R206, R210, R214, R218): `GetRule op valid wire result` gives the
code, the wire forms and the record each gives; `GetOutcome` (Safety.lean) gives the three outcomes. -/
def Obligations.ManagementGetsDecodeTheMessage : Prop :=
  (∀ (len : Word) (s : State),
    GetRule (W := WireHeader × Bytes 3 × Half × Half × Bytes 4 × Byte × Word) 0x0170 (fun _ => True)
      (fun (w, manufacturerId, deviceFamily, deviceFamilyModelNumber, softwareRevisionLevel, capability,
        maxSysexMessageSize) => w.bytes 0x70 ++ manufacturerId.toList ++ bigEndian 2 deviceFamily.toNat ++
        bigEndian 2 deviceFamilyModelNumber.toNat ++ softwareRevisionLevel.toList ++ [capability] ++ bigEndian 4
        maxSysexMessageSize.toNat)
      (fun (w, manufacturerId, deviceFamily, deviceFamilyModelNumber, softwareRevisionLevel, capability,
        maxSysexMessageSize) => w.record [(.manufacturerId, .bytes manufacturerId.toList), (.deviceFamily, .u16
        deviceFamily), (.deviceFamilyModelNumber, .u16 deviceFamilyModelNumber), (.softwareRevisionLevel, .bytes
        softwareRevisionLevel.toList), (.capability, .u8 capability), (.maxSysexMessageSize, .u32
        maxSysexMessageSize)])
      (.getDiscovery len) len s) ∧
  (∀ (len : Word) (s : State),
    GetRule (W := WireHeader × Bytes 3 × Half × Half × Bytes 4 × Byte × Word) 0x0171 (fun _ => True)
      (fun (w, manufacturerId, deviceFamily, deviceFamilyModelNumber, softwareRevisionLevel, capability,
        maxSysexMessageSize) => w.bytes 0x71 ++ manufacturerId.toList ++ bigEndian 2 deviceFamily.toNat ++
        bigEndian 2 deviceFamilyModelNumber.toNat ++ softwareRevisionLevel.toList ++ [capability] ++ bigEndian 4
        maxSysexMessageSize.toNat)
      (fun (w, manufacturerId, deviceFamily, deviceFamilyModelNumber, softwareRevisionLevel, capability,
        maxSysexMessageSize) => w.record [(.manufacturerId, .bytes manufacturerId.toList), (.deviceFamily, .u16
        deviceFamily), (.deviceFamilyModelNumber, .u16 deviceFamilyModelNumber), (.softwareRevisionLevel, .bytes
        softwareRevisionLevel.toList), (.capability, .u8 capability), (.maxSysexMessageSize, .u32
        maxSysexMessageSize)])
      (.getDiscoveryReply len) len s) ∧
  (∀ (len : Word) (s : State),
    GetRule (W := WireHeader × Bytes 4) 0x017E (fun _ => True)
      (fun (w, targetMuid) => w.bytes 0x7E ++ targetMuid.toList)
      (fun (w, targetMuid) => w.record [(.targetMuid, .muid (muidOfWire targetMuid))])
      (.getInvalidateMuid len) len s) ∧
  (∀ (len : Word) (s : State),
    GetRule (W := WireHeader × Byte × Byte × Byte × Bytes 5 × List Byte) 0x017D (fun (_, _, _, _, _, message) =>
      message.length < 2 ^ 16)
      (fun (w, origTransaction, statusCode, statusData, details, message) => w.bytes 0x7D ++ [origTransaction]
        ++ [statusCode] ++ [statusData] ++ details.toList ++ bigEndian 2 message.length ++ message)
      (fun (w, origTransaction, statusCode, statusData, details, message) => w.record [(.origTransaction, .u8
        origTransaction), (.statusCode, .u8 statusCode), (.statusData, .u8 statusData), (.details, .bytes
        details.toList), (.message, .records .w16 (message.map fun b => [b]))])
      (.getAck len) len s) ∧
  (∀ (len : Word) (s : State),
    GetRule (W := WireHeader) 0x017F (fun _ => True)
      (fun w => w.bytes 0x7F)
      (fun w => w.record [])
      (.getNak len) len s)

/-- The gets of the protocol negotiation kinds (R252, R256, R260, R273, R277, R281): `GetRule op valid wire
result` gives the code, the wire forms and the record each gives; `GetOutcome` (Safety.lean) gives the three
outcomes. -/
def Obligations.ProtocolGetsDecodeTheMessage : Prop :=
  (∀ (len : Word) (s : State),
    GetRule (W := WireHeader × Byte × List (Bytes 5)) 0x0110 (fun (_, _, supportedProtocols) =>
      supportedProtocols.length < 2 ^ 8)
      (fun (w, authorityLevel, supportedProtocols) => w.bytes 0x10 ++ [authorityLevel] ++ bigEndian 1
        supportedProtocols.length ++ (supportedProtocols.map Vector.toList).flatten)
      (fun (w, authorityLevel, supportedProtocols) => w.record [(.authorityLevel, .u8 authorityLevel),
        (.supportedProtocols, .records .w8 (supportedProtocols.map Vector.toList))])
      (.getInitiateProtocolNegotiation len) len s) ∧
  (∀ (len : Word) (s : State),
    GetRule (W := WireHeader × Byte × List (Bytes 5)) 0x0111 (fun (_, _, supportedProtocols) =>
      supportedProtocols.length < 2 ^ 8)
      (fun (w, authorityLevel, supportedProtocols) => w.bytes 0x11 ++ [authorityLevel] ++ bigEndian 1
        supportedProtocols.length ++ (supportedProtocols.map Vector.toList).flatten)
      (fun (w, authorityLevel, supportedProtocols) => w.record [(.authorityLevel, .u8 authorityLevel),
        (.supportedProtocols, .records .w8 (supportedProtocols.map Vector.toList))])
      (.getInitiateProtocolNegotiationReply len) len s) ∧
  (∀ (len : Word) (s : State),
    GetRule (W := WireHeader × Byte × Bytes 5) 0x0112 (fun _ => True)
      (fun (w, authorityLevel, protocolType) => w.bytes 0x12 ++ [authorityLevel] ++ protocolType.toList)
      (fun (w, authorityLevel, protocolType) => w.record [(.authorityLevel, .u8 authorityLevel), (.protocolType,
        .bytes protocolType.toList)])
      (.getSetProtocolType len) len s) ∧
  (∀ (len : Word) (s : State),
    GetRule (W := WireHeader × Byte × Bytes 48) 0x0113 (fun _ => True)
      (fun (w, authorityLevel, testData) => w.bytes 0x13 ++ [authorityLevel] ++ testData.toList)
      (fun (w, authorityLevel, testData) => w.record [(.authorityLevel, .u8 authorityLevel), (.testData,
        .pattern (decide (testData.toList = (List.range 48).map (BitVec.ofNat 8))))])
      (.getConfirmProtocolType len) len s) ∧
  (∀ (len : Word) (s : State),
    GetRule (W := WireHeader × Byte × Bytes 48) 0x0114 (fun _ => True)
      (fun (w, authorityLevel, testData) => w.bytes 0x14 ++ [authorityLevel] ++ testData.toList)
      (fun (w, authorityLevel, testData) => w.record [(.authorityLevel, .u8 authorityLevel), (.testData,
        .pattern (decide (testData.toList = (List.range 48).map (BitVec.ofNat 8))))])
      (.getConfirmProtocolTypeReply len) len s) ∧
  (∀ (len : Word) (s : State),
    GetRule (W := WireHeader × Byte) 0x0115 (fun _ => True)
      (fun (w, authorityLevel) => w.bytes 0x15 ++ [authorityLevel])
      (fun (w, authorityLevel) => w.record [(.authorityLevel, .u8 authorityLevel)])
      (.getConfirmProtocolTypeEstablished len) len s)

/-- The gets of the profile kinds (R302, R306, R310, R314, R318, R322, R326): `GetRule op valid wire result`
gives the code, the wire forms and the record each gives; `GetOutcome` (Safety.lean) gives the three outcomes.
-/
def Obligations.ProfileGetsDecodeTheMessage : Prop :=
  (∀ (len : Word) (s : State),
    GetRule (W := WireHeader) 0x0120 (fun _ => True)
      (fun w => w.bytes 0x20)
      (fun w => w.record [])
      (.getProfile len) len s) ∧
  (∀ (len : Word) (s : State),
    GetRule (W := WireHeader × List (Bytes 5) × List (Bytes 5)) 0x0121 (fun (_, enabledProfiles,
      disabledProfiles) => enabledProfiles.length < 2 ^ 16 ∧ disabledProfiles.length < 2 ^ 16)
      (fun (w, enabledProfiles, disabledProfiles) => w.bytes 0x21 ++ bigEndian 2 enabledProfiles.length ++
        (enabledProfiles.map Vector.toList).flatten ++ bigEndian 2 disabledProfiles.length ++
        (disabledProfiles.map Vector.toList).flatten)
      (fun (w, enabledProfiles, disabledProfiles) => w.record [(.enabledProfiles, .records .w16
        (enabledProfiles.map Vector.toList)), (.disabledProfiles, .records .w16 (disabledProfiles.map
        Vector.toList))])
      (.getProfileReply len) len s) ∧
  (∀ (len : Word) (s : State),
    GetRule (W := WireHeader × Bytes 5 × Half) 0x0124 (fun _ => True)
      (fun (w, profile, channelCount) => w.bytes 0x24 ++ profile.toList ++ bigEndian 2 channelCount.toNat)
      (fun (w, profile, channelCount) => w.record [(.profile, .bytes profile.toList), (.channelCount, .u16
        channelCount)])
      (.getProfileEnabledReport len) len s) ∧
  (∀ (len : Word) (s : State),
    GetRule (W := WireHeader × Bytes 5 × Half) 0x0125 (fun _ => True)
      (fun (w, profile, channelCount) => w.bytes 0x25 ++ profile.toList ++ bigEndian 2 channelCount.toNat)
      (fun (w, profile, channelCount) => w.record [(.profile, .bytes profile.toList), (.channelCount, .u16
        channelCount)])
      (.getProfileDisabledReport len) len s) ∧
  (∀ (len : Word) (s : State),
    GetRule (W := WireHeader × Bytes 5) 0x0126 (fun _ => True)
      (fun (w, profile) => w.bytes 0x26 ++ profile.toList)
      (fun (w, profile) => w.record [(.profile, .bytes profile.toList)])
      (.getProfileAdded len) len s) ∧
  (∀ (len : Word) (s : State),
    GetRule (W := WireHeader × Bytes 5) 0x0127 (fun _ => True)
      (fun (w, profile) => w.bytes 0x27 ++ profile.toList)
      (fun (w, profile) => w.record [(.profile, .bytes profile.toList)])
      (.getProfileRemoved len) len s) ∧
  (∀ (len : Word) (s : State),
    GetRule (W := WireHeader × Bytes 5 × List Byte) 0x012F (fun (_, _, data) => data.length < 2 ^ 32)
      (fun (w, profileId, data) => w.bytes 0x2F ++ profileId.toList ++ bigEndian 4 data.length ++ data)
      (fun (w, profileId, data) => w.record [(.profileId, .bytes profileId.toList), (.data, .records .w32
        (data.map fun b => [b]))])
      (.getProfileSpecificData len) len s)

/-- The gets of the property exchange kinds (R362, R366, R370, R374, R378, R382, R386, R390): `GetRule op valid
wire result` gives the code, the wire forms and the record each gives; `GetOutcome` (Safety.lean) gives the
three outcomes. -/
def Obligations.PropertyExchangeGetsDecodeTheMessage : Prop :=
  (∀ (len : Word) (s : State),
    GetRule (W := WireHeader × Byte × Byte × Byte) 0x0130 (fun _ => True)
      (fun (w, supportedCount, major, minor) => w.bytes 0x30 ++ [supportedCount] ++ [major] ++ [minor])
      (fun (w, supportedCount, major, minor) => w.record [(.supportedCount, .u8 supportedCount), (.major, .u8
        major), (.minor, .u8 minor)])
      (.getPropertyExchangeCapabilities len) len s) ∧
  (∀ (len : Word) (s : State),
    GetRule (W := WireHeader × Byte × Byte × Byte) 0x0131 (fun _ => True)
      (fun (w, supportedCount, major, minor) => w.bytes 0x31 ++ [supportedCount] ++ [major] ++ [minor])
      (fun (w, supportedCount, major, minor) => w.record [(.supportedCount, .u8 supportedCount), (.major, .u8
        major), (.minor, .u8 minor)])
      (.getPropertyExchangeCapabilitiesReply len) len s) ∧
  (∀ (len : Word) (s : State),
    GetRule (W := WireHeader × Byte × List Byte × Half × Half × List Byte) 0x0134 (fun (_, _, headerData, _, _,
      propertyData) => headerData.length < 2 ^ 16 ∧ propertyData.length < 2 ^ 16)
      (fun (w, requestId, headerData, chunkCount, nthChunk, propertyData) => w.bytes 0x34 ++ [requestId] ++
        bigEndian 2 headerData.length ++ headerData ++ bigEndian 2 chunkCount.toNat ++ bigEndian 2
        nthChunk.toNat ++ bigEndian 2 propertyData.length ++ propertyData)
      (fun (w, requestId, headerData, chunkCount, nthChunk, propertyData) => w.record [(.requestId, .u8
        requestId), (.headerData, .records .w16 (headerData.map fun b => [b])), (.chunkCount, .u16 chunkCount),
        (.nthChunk, .u16 nthChunk), (.propertyData, .records .w16 (propertyData.map fun b => [b]))])
      (.getGetPropertyData len) len s) ∧
  (∀ (len : Word) (s : State),
    GetRule (W := WireHeader × Byte × List Byte × Half × Half × List Byte) 0x0135 (fun (_, _, headerData, _, _,
      propertyData) => headerData.length < 2 ^ 16 ∧ propertyData.length < 2 ^ 16)
      (fun (w, requestId, headerData, chunkCount, nthChunk, propertyData) => w.bytes 0x35 ++ [requestId] ++
        bigEndian 2 headerData.length ++ headerData ++ bigEndian 2 chunkCount.toNat ++ bigEndian 2
        nthChunk.toNat ++ bigEndian 2 propertyData.length ++ propertyData)
      (fun (w, requestId, headerData, chunkCount, nthChunk, propertyData) => w.record [(.requestId, .u8
        requestId), (.headerData, .records .w16 (headerData.map fun b => [b])), (.chunkCount, .u16 chunkCount),
        (.nthChunk, .u16 nthChunk), (.propertyData, .records .w16 (propertyData.map fun b => [b]))])
      (.getGetPropertyDataReply len) len s) ∧
  (∀ (len : Word) (s : State),
    GetRule (W := WireHeader × Byte × List Byte × Half × Half × List Byte) 0x0136 (fun (_, _, headerData, _, _,
      propertyData) => headerData.length < 2 ^ 16 ∧ propertyData.length < 2 ^ 16)
      (fun (w, requestId, headerData, chunkCount, nthChunk, propertyData) => w.bytes 0x36 ++ [requestId] ++
        bigEndian 2 headerData.length ++ headerData ++ bigEndian 2 chunkCount.toNat ++ bigEndian 2
        nthChunk.toNat ++ bigEndian 2 propertyData.length ++ propertyData)
      (fun (w, requestId, headerData, chunkCount, nthChunk, propertyData) => w.record [(.requestId, .u8
        requestId), (.headerData, .records .w16 (headerData.map fun b => [b])), (.chunkCount, .u16 chunkCount),
        (.nthChunk, .u16 nthChunk), (.propertyData, .records .w16 (propertyData.map fun b => [b]))])
      (.getSetPropertyData len) len s) ∧
  (∀ (len : Word) (s : State),
    GetRule (W := WireHeader × Byte × List Byte × Half × Half × List Byte) 0x0137 (fun (_, _, headerData, _, _,
      propertyData) => headerData.length < 2 ^ 16 ∧ propertyData.length < 2 ^ 16)
      (fun (w, requestId, headerData, chunkCount, nthChunk, propertyData) => w.bytes 0x37 ++ [requestId] ++
        bigEndian 2 headerData.length ++ headerData ++ bigEndian 2 chunkCount.toNat ++ bigEndian 2
        nthChunk.toNat ++ bigEndian 2 propertyData.length ++ propertyData)
      (fun (w, requestId, headerData, chunkCount, nthChunk, propertyData) => w.record [(.requestId, .u8
        requestId), (.headerData, .records .w16 (headerData.map fun b => [b])), (.chunkCount, .u16 chunkCount),
        (.nthChunk, .u16 nthChunk), (.propertyData, .records .w16 (propertyData.map fun b => [b]))])
      (.getSetPropertyDataReply len) len s) ∧
  (∀ (len : Word) (s : State),
    GetRule (W := WireHeader × Byte × List Byte × Half × Half × List Byte) 0x0138 (fun (_, _, headerData, _, _,
      propertyData) => headerData.length < 2 ^ 16 ∧ propertyData.length < 2 ^ 16)
      (fun (w, requestId, headerData, chunkCount, nthChunk, propertyData) => w.bytes 0x38 ++ [requestId] ++
        bigEndian 2 headerData.length ++ headerData ++ bigEndian 2 chunkCount.toNat ++ bigEndian 2
        nthChunk.toNat ++ bigEndian 2 propertyData.length ++ propertyData)
      (fun (w, requestId, headerData, chunkCount, nthChunk, propertyData) => w.record [(.requestId, .u8
        requestId), (.headerData, .records .w16 (headerData.map fun b => [b])), (.chunkCount, .u16 chunkCount),
        (.nthChunk, .u16 nthChunk), (.propertyData, .records .w16 (propertyData.map fun b => [b]))])
      (.getSubscription len) len s) ∧
  (∀ (len : Word) (s : State),
    GetRule (W := WireHeader × Byte × List Byte × Half × Half × List Byte) 0x0139 (fun (_, _, headerData, _, _,
      propertyData) => headerData.length < 2 ^ 16 ∧ propertyData.length < 2 ^ 16)
      (fun (w, requestId, headerData, chunkCount, nthChunk, propertyData) => w.bytes 0x39 ++ [requestId] ++
        bigEndian 2 headerData.length ++ headerData ++ bigEndian 2 chunkCount.toNat ++ bigEndian 2
        nthChunk.toNat ++ bigEndian 2 propertyData.length ++ propertyData)
      (fun (w, requestId, headerData, chunkCount, nthChunk, propertyData) => w.record [(.requestId, .u8
        requestId), (.headerData, .records .w16 (headerData.map fun b => [b])), (.chunkCount, .u16 chunkCount),
        (.nthChunk, .u16 nthChunk), (.propertyData, .records .w16 (propertyData.map fun b => [b]))])
      (.getSubscriptionReply len) len s)

/-- The gets of the process inquiry kinds (R442, R446, R450, R454, R458): `GetRule op valid wire result` gives
the code, the wire forms and the record each gives; `GetOutcome` (Safety.lean) gives the three outcomes. -/
def Obligations.ProcessInquiryGetsDecodeTheMessage : Prop :=
  (∀ (len : Word) (s : State),
    GetRule (W := WireHeader) 0x0140 (fun _ => True)
      (fun w => w.bytes 0x40)
      (fun w => w.record [])
      (.getProcessCapabilities len) len s) ∧
  (∀ (len : Word) (s : State),
    GetRule (W := WireHeader × Byte) 0x0141 (fun _ => True)
      (fun (w, supportedFeatures) => w.bytes 0x41 ++ [supportedFeatures])
      (fun (w, supportedFeatures) => w.record [(.supportedFeatures, .u8 supportedFeatures)])
      (.getProcessCapabilitiesReply len) len s) ∧
  (∀ (len : Word) (s : State),
    GetRule (W := WireHeader × Byte × Byte × Byte × Byte × Byte) 0x0142 (fun _ => True)
      (fun (w, dataControl, systemMessages, otherMessages, channelControllerMessages, noteDataMessages) =>
        w.bytes 0x42 ++ [dataControl] ++ [systemMessages] ++ [otherMessages] ++ [channelControllerMessages] ++
        [noteDataMessages])
      (fun (w, dataControl, systemMessages, otherMessages, channelControllerMessages, noteDataMessages) =>
        w.record [(.dataControl, .u8 dataControl), (.systemMessages, .u8 systemMessages), (.otherMessages, .u8
        otherMessages), (.channelControllerMessages, .u8 channelControllerMessages), (.noteDataMessages, .u8
        noteDataMessages)])
      (.getMessageReport len) len s) ∧
  (∀ (len : Word) (s : State),
    GetRule (W := WireHeader × Byte × Byte × Byte × Byte) 0x0143 (fun _ => True)
      (fun (w, systemMessages, otherMessages, channelControllerMessages, noteDataMessages) => w.bytes 0x43 ++
        [systemMessages] ++ [otherMessages] ++ [channelControllerMessages] ++ [noteDataMessages])
      (fun (w, systemMessages, otherMessages, channelControllerMessages, noteDataMessages) => w.record
        [(.systemMessages, .u8 systemMessages), (.otherMessages, .u8 otherMessages),
        (.channelControllerMessages, .u8 channelControllerMessages), (.noteDataMessages, .u8 noteDataMessages)])
      (.getMessageReportReply len) len s) ∧
  (∀ (len : Word) (s : State),
    GetRule (W := WireHeader) 0x0144 (fun _ => True)
      (fun w => w.bytes 0x44)
      (fun w => w.record [])
      (.getEndOfMessageReport len) len s)

/-- The classifiers of the management kinds (R203, R207, R211, R215, R219). -/
def Obligations.ManagementPredicatesMatchTheHeader : Prop :=
  (∀ (len : Word) (s : State), IsRule 0x0070 0x70 (.isDiscovery len) len s) ∧
  (∀ (len : Word) (s : State), IsRule 0x0071 0x71 (.isDiscoveryReply len) len s) ∧
  (∀ (len : Word) (s : State), IsRule 0x007E 0x7E (.isInvalidateMuid len) len s) ∧
  (∀ (len : Word) (s : State), IsRule 0x007D 0x7D (.isAck len) len s) ∧
  (∀ (len : Word) (s : State), IsRule 0x007F 0x7F (.isNak len) len s)

/-- The classifiers of the protocol negotiation kinds (R253, R257, R261, R274, R278, R282). -/
def Obligations.ProtocolPredicatesMatchTheHeader : Prop :=
  (∀ (len : Word) (s : State), IsRule 0x0010 0x10 (.isInitiateProtocolNegotiation len) len s) ∧
  (∀ (len : Word) (s : State), IsRule 0x0011 0x11 (.isInitiateProtocolNegotiationReply len) len s) ∧
  (∀ (len : Word) (s : State), IsRule 0x0012 0x12 (.isSetProtocolType len) len s) ∧
  (∀ (len : Word) (s : State), IsRule 0x0013 0x13 (.isConfirmProtocolType len) len s) ∧
  (∀ (len : Word) (s : State), IsRule 0x0014 0x14 (.isConfirmProtocolTypeReply len) len s) ∧
  (∀ (len : Word) (s : State), IsRule 0x0015 0x15 (.isConfirmProtocolTypeEstablished len) len s)

/-- The classifiers of the profile kinds (R303, R307, R311, R315, R319, R323, R327). -/
def Obligations.ProfilePredicatesMatchTheHeader : Prop :=
  (∀ (len : Word) (s : State), IsRule 0x0020 0x20 (.isProfile len) len s) ∧
  (∀ (len : Word) (s : State), IsRule 0x0021 0x21 (.isProfileReply len) len s) ∧
  (∀ (len : Word) (s : State), IsRule 0x0024 0x24 (.isProfileEnabledReport len) len s) ∧
  (∀ (len : Word) (s : State), IsRule 0x0025 0x25 (.isProfileDisabledReport len) len s) ∧
  (∀ (len : Word) (s : State), IsRule 0x0026 0x26 (.isProfileAdded len) len s) ∧
  (∀ (len : Word) (s : State), IsRule 0x0027 0x27 (.isProfileRemoved len) len s) ∧
  (∀ (len : Word) (s : State), IsRule 0x002F 0x2F (.isProfileSpecificData len) len s)

/-- The classifiers of the property exchange kinds (R363, R367, R371, R375, R379, R383, R387, R391). -/
def Obligations.PropertyExchangePredicatesMatchTheHeader : Prop :=
  (∀ (len : Word) (s : State), IsRule 0x0030 0x30 (.isPropertyExchangeCapabilities len) len s) ∧
  (∀ (len : Word) (s : State), IsRule 0x0031 0x31 (.isPropertyExchangeCapabilitiesReply len) len s) ∧
  (∀ (len : Word) (s : State), IsRule 0x0034 0x34 (.isGetPropertyData len) len s) ∧
  (∀ (len : Word) (s : State), IsRule 0x0035 0x35 (.isGetPropertyDataReply len) len s) ∧
  (∀ (len : Word) (s : State), IsRule 0x0036 0x36 (.isSetPropertyData len) len s) ∧
  (∀ (len : Word) (s : State), IsRule 0x0037 0x37 (.isSetPropertyDataReply len) len s) ∧
  (∀ (len : Word) (s : State), IsRule 0x0038 0x38 (.isSubscription len) len s) ∧
  (∀ (len : Word) (s : State), IsRule 0x0039 0x39 (.isSubscriptionReply len) len s)

/-- The classifiers of the process inquiry kinds (R443, R447, R451, R455, R459). -/
def Obligations.ProcessInquiryPredicatesMatchTheHeader : Prop :=
  (∀ (len : Word) (s : State), IsRule 0x0040 0x40 (.isProcessCapabilities len) len s) ∧
  (∀ (len : Word) (s : State), IsRule 0x0041 0x41 (.isProcessCapabilitiesReply len) len s) ∧
  (∀ (len : Word) (s : State), IsRule 0x0042 0x42 (.isMessageReport len) len s) ∧
  (∀ (len : Word) (s : State), IsRule 0x0043 0x43 (.isMessageReportReply len) len s) ∧
  (∀ (len : Word) (s : State), IsRule 0x0044 0x44 (.isEndOfMessageReport len) len s)

/-- `generate_muid` (R130): status, MUID and frame are the rule's. That the draw is `Config.draw` of the counter
`draws`, a free value, and that the counter advances by one are the model's choice (log 3); no rule names the
counter. -/
def Obligations.GenerateMuidReturnsADraw : Prop :=
  (encode .generateMuid).op = 0x0300 ∧
  ∀ s : State, exec .generateMuid s = .next { s with
    rsp := { status := some .ok, count := none, flag := none,
             muid := some ((Config.draw s.draws).setWidth 32), fields := none }
    draws := s.draws + 1 } ∧
    ((Config.draw s.draws).setWidth 32 : Word).toNat < 2 ^ 28

/-- `put_muid` (R131). -/
def Obligations.PutMuidWritesTheFirstGroup : Prop :=
  (∀ m, (encode (.putMuid m)).op = 0x0301) ∧
  ∀ (m : Word) (s : State),
    (2 ^ 28 ≤ m.toNat → exec (.putMuid m) s = .next (errorState s .overflowError)) ∧
    (m.toNat < 2 ^ 28 → ∃ mem, exec (.putMuid m) s = .next { s with
        mem := mem, rsp := { status := some .ok, count := none, flag := none, muid := none, fields := none } } ∧
      mem.read 3 = muidW3 m ∧ mem.read 2 = muidW2 m ∧ mem.read 1 = muidW1 m ∧ mem.read 0 = muidW0 m ∧
      (∀ a, 4 ≤ a → mem.read a = s.mem.read a) ∧
      (m = 0x12345 → mem.read 0 = 0x45 ∧ mem.read 1 = 0x23 ∧ mem.read 2 = 0x01 ∧ mem.read 3 = 0x00)) ∧
    exec (.putMuid m) s = exec (.putMuidWithPosition 0 m) s

/-- `get_muid` (R132). -/
def Obligations.GetMuidReadsTheFirstGroup : Prop :=
  (encode .getMuid).op = 0x0302 ∧
  ∀ s : State,
    exec .getMuid s = .next { s with
      rsp := { status := some .ok, count := none, flag := none,
               muid := some (muidFrom (s.mem.read 3) (s.mem.read 2) (s.mem.read 1) (s.mem.read 0)),
               fields := none } } ∧
    (∀ b ∈ [(0xFF : Byte), 0x7F], s.mem.read 3 = b → s.mem.read 2 = b → s.mem.read 1 = b → s.mem.read 0 = b →
      muidFrom (s.mem.read 3) (s.mem.read 2) (s.mem.read 1) (s.mem.read 0) = 0x0FFFFFFF) ∧
    (∀ (m : Word) (t : State), m.toNat < 2 ^ 28 → exec (.putMuid m) s = .next t →
      ∃ u, exec .getMuid t = .next u ∧ u.rsp.muid = some m)

/-- `put_muid_with_position` (R133): positions are natural numbers, so they do not wrap. -/
def Obligations.PutMuidWithPositionWritesFourPositions : Prop :=
  (∀ pos m, (encode (.putMuidWithPosition pos m)).op = 0x0303) ∧
  ∀ (pos m : Word) (s : State),
    (2 ^ 28 ≤ m.toNat → exec (.putMuidWithPosition pos m) s = .next (errorState s .overflowError)) ∧
    (m.toNat < 2 ^ 28 → (∃ i < 4, s.cap.val ≤ 4 * ((pos.toNat + i) / 4) + (3 - (pos.toNat + i) % 4)) →
      exec (.putMuidWithPosition pos m) s = .next (errorState s .capacityError)) ∧
    (m.toNat < 2 ^ 28 → (∀ i < 4, 4 * ((pos.toNat + i) / 4) + (3 - (pos.toNat + i) % 4) < s.cap.val) →
      ∃ mem, exec (.putMuidWithPosition pos m) s = .next { s with
          mem := mem, rsp := { status := some .ok, count := none, flag := none, muid := none, fields := none } } ∧
        mem.read (addrOf pos.toNat) = muidW3 m ∧ mem.read (addrOf (pos.toNat + 1)) = muidW2 m ∧
        mem.read (addrOf (pos.toNat + 2)) = muidW1 m ∧ mem.read (addrOf (pos.toNat + 3)) = muidW0 m ∧
        (∀ a, (∀ i < 4, a ≠ addrOf (pos.toNat + i)) → mem.read a = s.mem.read a) ∧
        (pos = 6 → m = 0x12345 →
          mem.read 5 = 0x00 ∧ mem.read 4 = 0x01 ∧ mem.read 11 = 0x23 ∧ mem.read 10 = 0x45))

/-- `get_muid_with_position` (R134). -/
def Obligations.GetMuidWithPositionReadsFourPositions : Prop :=
  (∀ pos, (encode (.getMuidWithPosition pos)).op = 0x0304) ∧
  ∀ (pos : Word) (s : State),
    ((∃ i < 4, s.cap.val ≤ 4 * ((pos.toNat + i) / 4) + (3 - (pos.toNat + i) % 4)) →
      exec (.getMuidWithPosition pos) s = .next (errorState s .capacityError)) ∧
    ((∀ i < 4, 4 * ((pos.toNat + i) / 4) + (3 - (pos.toNat + i) % 4) < s.cap.val) →
      exec (.getMuidWithPosition pos) s = .next { s with
        rsp := { status := some .ok, count := none, flag := none,
                 muid := some (muidFrom (s.mem.read (addrOf pos.toNat)) (s.mem.read (addrOf (pos.toNat + 1)))
                   (s.mem.read (addrOf (pos.toNat + 2))) (s.mem.read (addrOf (pos.toNat + 3)))),
                 fields := none } }) ∧
    (∀ (m : Word) (t : State), exec (.putMuidWithPosition pos m) s = .next t → t.rsp.status = some .ok →
      ∃ u, exec (.getMuidWithPosition pos) t = .next u ∧ u.rsp.status = some .ok ∧ u.rsp.muid = some m)

/-- The table and the formulas of R135. -/
def Obligations.MuidWireBits : Prop :=
  ∀ m : Word, m.toNat < 2 ^ 28 →
    muidWire m = [muidW3 m, muidW2 m, muidW1 m, muidW0 m] ∧
    (muidW3 m).getLsbD 7 = false ∧ (muidW2 m).getLsbD 7 = false ∧ (muidW1 m).getLsbD 7 = false ∧
    (muidW0 m).getLsbD 7 = false ∧
    (muidW3 m).getLsbD 6 = m.getLsbD 23 ∧
    (muidW3 m).getLsbD 5 = m.getLsbD 15 ∧
    (muidW3 m).getLsbD 4 = m.getLsbD 7 ∧
    (muidW3 m).getLsbD 3 = m.getLsbD 27 ∧
    (muidW3 m).getLsbD 2 = m.getLsbD 26 ∧
    (muidW3 m).getLsbD 1 = m.getLsbD 25 ∧
    (muidW3 m).getLsbD 0 = m.getLsbD 24 ∧
    (muidW2 m).getLsbD 6 = m.getLsbD 22 ∧
    (muidW2 m).getLsbD 5 = m.getLsbD 21 ∧
    (muidW2 m).getLsbD 4 = m.getLsbD 20 ∧
    (muidW2 m).getLsbD 3 = m.getLsbD 19 ∧
    (muidW2 m).getLsbD 2 = m.getLsbD 18 ∧
    (muidW2 m).getLsbD 1 = m.getLsbD 17 ∧
    (muidW2 m).getLsbD 0 = m.getLsbD 16 ∧
    (muidW1 m).getLsbD 6 = m.getLsbD 14 ∧
    (muidW1 m).getLsbD 5 = m.getLsbD 13 ∧
    (muidW1 m).getLsbD 4 = m.getLsbD 12 ∧
    (muidW1 m).getLsbD 3 = m.getLsbD 11 ∧
    (muidW1 m).getLsbD 2 = m.getLsbD 10 ∧
    (muidW1 m).getLsbD 1 = m.getLsbD 9 ∧
    (muidW1 m).getLsbD 0 = m.getLsbD 8 ∧
    (muidW0 m).getLsbD 6 = m.getLsbD 6 ∧
    (muidW0 m).getLsbD 5 = m.getLsbD 5 ∧
    (muidW0 m).getLsbD 4 = m.getLsbD 4 ∧
    (muidW0 m).getLsbD 3 = m.getLsbD 3 ∧
    (muidW0 m).getLsbD 2 = m.getLsbD 2 ∧
    (muidW0 m).getLsbD 1 = m.getLsbD 1 ∧
    (muidW0 m).getLsbD 0 = m.getLsbD 0 ∧
    (muidW3 m).setWidth 32 = ((m >>> 24) &&& 0x0F) ||| ((m &&& 0x800000) >>> 17) ||| ((m &&& 0x8000) >>> 10)
      ||| ((m &&& 0x80) >>> 3) ∧
    (muidW2 m).setWidth 32 = (m >>> 16) &&& 0x7F ∧ (muidW1 m).setWidth 32 = (m >>> 8) &&& 0x7F ∧
    (muidW0 m).setWidth 32 = m &&& 0x7F

/-- `MuidFrom` on any four bytes (R136). -/
def Obligations.MuidFromBits : Prop :=
  (∀ w3 w2 w1 w0 : Byte,
    (muidFrom w3 w2 w1 w0).getLsbD 27 = w3.getLsbD 3 ∧
    (muidFrom w3 w2 w1 w0).getLsbD 26 = w3.getLsbD 2 ∧
    (muidFrom w3 w2 w1 w0).getLsbD 25 = w3.getLsbD 1 ∧
    (muidFrom w3 w2 w1 w0).getLsbD 24 = w3.getLsbD 0 ∧
    (muidFrom w3 w2 w1 w0).getLsbD 23 = w3.getLsbD 6 ∧
    (muidFrom w3 w2 w1 w0).getLsbD 22 = w2.getLsbD 6 ∧
    (muidFrom w3 w2 w1 w0).getLsbD 21 = w2.getLsbD 5 ∧
    (muidFrom w3 w2 w1 w0).getLsbD 20 = w2.getLsbD 4 ∧
    (muidFrom w3 w2 w1 w0).getLsbD 19 = w2.getLsbD 3 ∧
    (muidFrom w3 w2 w1 w0).getLsbD 18 = w2.getLsbD 2 ∧
    (muidFrom w3 w2 w1 w0).getLsbD 17 = w2.getLsbD 1 ∧
    (muidFrom w3 w2 w1 w0).getLsbD 16 = w2.getLsbD 0 ∧
    (muidFrom w3 w2 w1 w0).getLsbD 15 = w3.getLsbD 5 ∧
    (muidFrom w3 w2 w1 w0).getLsbD 14 = w1.getLsbD 6 ∧
    (muidFrom w3 w2 w1 w0).getLsbD 13 = w1.getLsbD 5 ∧
    (muidFrom w3 w2 w1 w0).getLsbD 12 = w1.getLsbD 4 ∧
    (muidFrom w3 w2 w1 w0).getLsbD 11 = w1.getLsbD 3 ∧
    (muidFrom w3 w2 w1 w0).getLsbD 10 = w1.getLsbD 2 ∧
    (muidFrom w3 w2 w1 w0).getLsbD 9 = w1.getLsbD 1 ∧
    (muidFrom w3 w2 w1 w0).getLsbD 8 = w1.getLsbD 0 ∧
    (muidFrom w3 w2 w1 w0).getLsbD 7 = w3.getLsbD 4 ∧
    (muidFrom w3 w2 w1 w0).getLsbD 6 = w0.getLsbD 6 ∧
    (muidFrom w3 w2 w1 w0).getLsbD 5 = w0.getLsbD 5 ∧
    (muidFrom w3 w2 w1 w0).getLsbD 4 = w0.getLsbD 4 ∧
    (muidFrom w3 w2 w1 w0).getLsbD 3 = w0.getLsbD 3 ∧
    (muidFrom w3 w2 w1 w0).getLsbD 2 = w0.getLsbD 2 ∧
    (muidFrom w3 w2 w1 w0).getLsbD 1 = w0.getLsbD 1 ∧
    (muidFrom w3 w2 w1 w0).getLsbD 0 = w0.getLsbD 0 ∧
    (muidFrom w3 w2 w1 w0).toNat < 2 ^ 28 ∧
    muidFrom w3 w2 w1 w0 = muidFrom (w3 &&& 0x7F) (w2 &&& 0x7F) (w1 &&& 0x7F) (w0 &&& 0x7F)) ∧
  ∀ m : Word, m.toNat < 2 ^ 28 → muidFrom (muidW3 m) (muidW2 m) (muidW1 m) (muidW0 m) = m

/-- The MUID laws (R137). -/
def Obligations.MuidPackingLaws : Prop :=
  (∀ m n : Word, m.toNat < 2 ^ 28 → n.toNat < 2 ^ 28 → muidWire m = muidWire n → m = n) ∧
  (∀ m : Word, m.toNat < 2 ^ 28 → muidFrom (muidW3 m) (muidW2 m) (muidW1 m) (muidW0 m) = m) ∧
  muidWire 0x0FFFFFFF = [0x7F, 0x7F, 0x7F, 0x7F] ∧ muidWire 0 = [0, 0, 0, 0] ∧
  (∀ m : Word, m.toNat < 2 ^ 28 → ∀ b ∈ muidWire m, b.toNat < 0x80) ∧
  (∀ w3 w2 w1 w0 v3 v2 v1 v0 : Byte, (∀ b ∈ [w3, w2, w1, w0, v3, v2, v1, v0], b.toNat < 0x80) →
    muidFrom w3 w2 w1 w0 = muidFrom v3 v2 v1 v0 → w3 = v3 ∧ w2 = v2 ∧ w1 = v1 ∧ w0 = v0) ∧
  (∀ w3 w2 w1 w0 : Byte, (muidFrom w3 w2 w1 w0).toNat < 2 ^ 28) ∧
  (∀ m : Word, m.toNat < 2 ^ 28 → ∃ w3 w2 w1 w0 : Byte, (∀ b ∈ [w3, w2, w1, w0], b.toNat < 0x80) ∧
    muidFrom w3 w2 w1 w0 = m)

/-- `A(p)` (R61) and the walk of the cursor (R63). -/
def Obligations.CursorWalksThePositions : Prop :=
  (∀ p, addrOf p = 4 * (p / 4) + (3 - p % 4)) ∧
  (List.range 16).map addrOf = [3, 2, 1, 0, 7, 6, 5, 4, 11, 10, 9, 8, 15, 14, 13, 12] ∧
  ∀ p i : Nat, cursorAddr (cursorAdvance^[i] (cursorAt p)) = addrOf (p + i)

/-- The position map (R64). -/
def Obligations.PositionMapReversesEachGroup : Prop :=
  Function.Bijective addrOf ∧ (∀ p, addrOf (addrOf p) = p) ∧
  (∀ g j, j < 4 → addrOf (4 * g + j) = 4 * g + (3 - j)) ∧
  (∀ k a, a < 4 * k ↔ ∃ p < 4 * k, addrOf p = a)

/-- The table of R99; `bigEndian n v` is the `n` bytes of `v`, most significant first. -/
def Obligations.FieldTypesOnTheWire : Prop :=
  (∀ v : Byte, emitField (.u8 v) = [v]) ∧
  (∀ v : Half, emitField (.u16 v) = [v.extractLsb' 8 8, v.extractLsb' 0 8] ∧
    emitField (.u16 v) = bigEndian 2 v.toNat) ∧
  (∀ v : Word, emitField (.u32 v) =
      [v.extractLsb' 24 8, v.extractLsb' 16 8, v.extractLsb' 8 8, v.extractLsb' 0 8] ∧
    emitField (.u32 v) = bigEndian 4 v.toNat) ∧
  (∀ bs : List Byte, emitField (.bytes bs) = bs) ∧
  (∀ m : Word, emitField (.muid m) = [muidW3 m, muidW2 m, muidW1 m, muidW0 m]) ∧
  (∀ (k : Nat) (rs : List (List Byte)), (∀ r ∈ rs, r.length = k) →
    (emitField (.records .w8 rs) = bigEndian 1 rs.length ++ rs.flatten ∧
      (emitField (.records .w8 rs)).length = 1 + k * rs.length) ∧
    (emitField (.records .w16 rs) = bigEndian 2 rs.length ++ rs.flatten ∧
      (emitField (.records .w16 rs)).length = 2 + k * rs.length) ∧
    (emitField (.records .w32 rs) = bigEndian 4 rs.length ++ rs.flatten ∧
      (emitField (.records .w32 rs)).length = 4 + k * rs.length)) ∧
  (∀ b, emitField (.pattern b) = (List.range 48).map (BitVec.ofNat 8))

/-- Decoding integers and lists (R103). -/
def Obligations.IntegersAndListsDecode : Prop :=
  (∀ (rd : Nat → Option Byte) (p : Nat) (b0 b1 : Byte), rd p = some b0 → rd (p + 1) = some b1 →
    ∃ v : Half, parseField rd p .u16 = some (.u16 v, p + 2) ∧ v.toNat = b0.toNat * 256 + b1.toNat) ∧
  (∀ (rd : Nat → Option Byte) (p : Nat) (b0 b1 b2 b3 : Byte), rd p = some b0 → rd (p + 1) = some b1 →
    rd (p + 2) = some b2 → rd (p + 3) = some b3 →
    ∃ v : Word, parseField rd p .u32 = some (.u32 v, p + 4) ∧
      v.toNat = b0.toNat * 256 ^ 3 + b1.toNat * 256 ^ 2 + b2.toNat * 256 + b3.toNat) ∧
  (∀ (rd : Nat → Option Byte) (p k c : Nat) (w : CountWidth) (rs : List (List Byte)),
    rs.length = c → c < 2 ^ countBits w → (∀ r ∈ rs, r.length = k) →
    (∀ j (h : j < (bigEndian (countBits w / 8) c ++ rs.flatten).length),
      rd (p + j) = some (bigEndian (countBits w / 8) c ++ rs.flatten)[j]) →
    parseField rd p (.list w k) = some (.records w rs, p + countBits w / 8 + k * c)) ∧
  (∀ (rd : Nat → Option Byte) (p k q : Nat) (w : CountWidth) (v : FieldValue),
    parseField rd p (.list w k) = some (v, q) →
    ∃ rs : List (List Byte), v = .records w rs ∧ (∀ r ∈ rs, r.length = k) ∧
      q = p + countBits w / 8 + k * rs.length)

/-- The constant test pattern (R270), and where the two confirm puts write it. -/
def Obligations.TestPatternIsWrittenByTheConfirmPuts : Prop :=
  testPattern.length = 48 ∧ (∀ i < 48, testPattern[i]? = some (BitVec.ofNat 8 i)) ∧
  ∀ (k : Kind) (len : Word) (a : Args) (s t : State), k = .confirmProtocolType ∨ k = .confirmProtocolTypeReply →
    exec (putOf len a k) s = .next t → t.rsp.status = some .ok →
    ∀ i < 48, t.mem.read (addrOf (15 + i)) = BitVec.ofNat 8 i

/-- The message length and its table (R102); `bodyLength` and `minimumLength` are the table's columns. -/
def Obligations.MessageLengthOfEveryKind : Prop :=
  (∀ q, messageLength q = 4 * ((q + 4) / 4) ∧ messageLength q % 4 = 0 ∧ q + 1 ≤ messageLength q ∧
    ∀ n, n % 4 = 0 → q + 1 ≤ n → messageLength q ≤ n) ∧
  (∀ (k : Kind) (a : Args), (bodyOf k a).length = bodyLength k a ∧ lengthOf k a = messageLength (bodyLength k a)) ∧
  (∀ k, messageLength (bodyLength k Args.zero) = minimumLength k) ∧
  (∀ (len : Word) (a : Args) (k : Kind) (s t : State), exec (putOf len a k) s = .next t →
    t.rsp.status = some .ok → t.rsp.count = some (BitVec.ofNat 32 (4 * ((bodyLength k a + 4) / 4))))

/-- Which addresses each operation writes (R74), for all 98 instructions at once. -/
def Obligations.WritesOnlyTheNamedAddresses : Prop :=
  ∀ (i : Instr) (s t : State), exec i s = .next t →
    (t.rsp.status ≠ some .ok → t.mem = s.mem) ∧
    (∀ len a k, i = putOf len a k → t.rsp.status = some .ok →
      (∀ x, lengthOf k a ≤ x → t.mem.read x = s.mem.read x) ∧
      (∀ s' t', s'.cap = s.cap → exec i s' = .next t' → ∀ x < lengthOf k a, t'.mem.read x = t.mem.read x)) ∧
    (∀ m, i = .putMuid m → t.rsp.status = some .ok →
      (∀ x, 4 ≤ x → t.mem.read x = s.mem.read x) ∧
      (∀ s' t', exec i s' = .next t' → ∀ x < 4, t'.mem.read x = t.mem.read x)) ∧
    (∀ p m, i = .putMuidWithPosition p m → t.rsp.status = some .ok →
      (∀ x, (∀ j < 4, x ≠ addrOf (p.toNat + j)) → t.mem.read x = s.mem.read x) ∧
      (∀ s' t', s'.cap = s.cap → exec i s' = .next t' →
        ∀ j < 4, t'.mem.read (addrOf (p.toNat + j)) = t.mem.read (addrOf (p.toNat + j)))) ∧
    ((∀ len a k, i ≠ putOf len a k) → (∀ m, i ≠ .putMuid m) → (∀ p m, i ≠ .putMuidWithPosition p m) →
      t.mem = s.mem)

/-- Every request ends with exactly one response (R500; the rest of the host's program is the model's `pending`,
log 4). -/
def Obligations.EveryRequestCompletesWithAStatus : Prop :=
  ∀ (s : State) (rest : List HostStep) (r : Request), s.pending = .request r :: rest →
    ∃ t st, step s = .next t ∧ t.rsp.status = some st ∧ t.pending = rest ∧ t.cap = s.cap

/-- Errors are precise (R502): for every request and every error status. -/
def Obligations.ErrorsArePrecise : Prop :=
  ∀ (s t : State) (rest : List HostStep) (r : Request) (st : Status), s.pending = .request r :: rest →
    step s = .next t → t.rsp.status = some st → st.isError = true →
    t = errorState { s with pending := rest } st

/-- The fault mark (R507): set by errors, left by every other outcome, cleared by no step of any run. -/
def Obligations.FaultMarkIsSetByErrorsAndNeverCleared : Prop :=
  (∀ (s t : State) (rest : List HostStep) (r : Request) (st : Status), s.pending = .request r :: rest →
    step s = .next t → t.rsp.status = some st → t.faultMark = (s.faultMark || st.isError)) ∧
  (Status.isError .parseError = false ∧ Status.isError .ok = false ∧ Status.isError .capacityError = true ∧
    Status.isError .overflowError = true ∧ Status.isError .illegalRequest = true) ∧
  (∀ s t : State, Relation.ReflTransGen (fun u v => step u = .next v) s t → s.faultMark = true →
    t.faultMark = true ∧ ¬ GoodRun t)

/-- The priority of the outcomes (R508); `StatusRule` (Safety.lean) writes the order out for each class. -/
def Obligations.OneOutcomeInPriorityOrder : Prop :=
  ∀ (s : State) (rest : List HostStep) (r : Request), s.pending = .request r :: rest →
    ∃ t st, step s = .next t ∧ t.rsp.status = some st ∧
      (¬ LegalCode r.op → st = .illegalRequest) ∧ (∀ i, decode r = .ok i → StatusRule i s st)

/-- The causes of `OVERFLOW_ERROR` (R505). -/
def Obligations.OverflowErrorCauses : Prop :=
  ∀ (i : Instr) (s t : State), exec i s = .next t →
    (t.rsp.status = some .overflowError ↔ i.wellFormed = false) ∧
    (t.rsp.status = some .overflowError ↔
      (∃ len a k, i = putOf len a k ∧ PutOverflow k a) ∨
      (∃ m : Word, i = .putMuid m ∧ 2 ^ 28 ≤ m.toNat) ∨
      (∃ p m : Word, i = .putMuidWithPosition p m ∧ 2 ^ 28 ≤ m.toNat))

/-- The causes of `CAPACITY_ERROR` (R504), for operands in range (R508 puts `OVERFLOW_ERROR` first). -/
def Obligations.CapacityErrorCauses : Prop :=
  ∀ (i : Instr) (s t : State), i.wellFormed = true → exec i s = .next t →
    (t.rsp.status = some .capacityError ↔
      (∃ len k, (i = isOf len k ∨ i = getOf len k) ∧ s.cap.val < len.toNat) ∨
      (∃ len a k, i = putOf len a k ∧ (s.cap.val < len.toNat ∨ len.toNat < lengthOf k a)) ∨
      (∃ p, ((∃ m, i = .putMuidWithPosition p m) ∨ i = .getMuidWithPosition p) ∧ PositionOutside s p))

/-- The status and flag state of the block (R41). -/
def Obligations.ResponseFieldsHeldAndNeverRead : Prop :=
  (∀ (i : Instr) (s t : State), exec i s = .next t →
    (∃ st, t.rsp.status = some st) ∧
    (t.rsp.flag ≠ none ↔ t.rsp.status = some .ok ∧ ∃ len k, i = isOf len k) ∧
    (t.rsp.count ≠ none ↔ (t.rsp.status = some .ok ∧ ∃ len a k, i = putOf len a k) ∨
      ((t.rsp.status = some .ok ∨ t.rsp.status = some .parseError) ∧ ∃ len k, i = getOf len k)) ∧
    (t.rsp.muid ≠ none → i = .generateMuid ∨ i = .getMuid ∨ ∃ p, i = .getMuidWithPosition p) ∧
    (t.rsp.fields ≠ none → t.rsp.status = some .ok ∧ ∃ len k, i = getOf len k)) ∧
  (∀ (i : Instr) (s : State) (r : Response), exec i { s with rsp := r } = exec i s)

/-- A read of a field that holds no value is a fault of the model (R40). That a read is a step of its own is the
model's reading (log 6). -/
def Obligations.ReadOfAnUnheldFieldSetsTheMark : Prop :=
  ∀ (s : State) (rest : List HostStep) (f : RspField), s.pending = .read f :: rest →
    (s.rsp.holds f = true → step s = .next { s with pending := rest }) ∧
    (s.rsp.holds f = false → step s = .next { s with pending := rest, faultMark := true })

/-- A host write between requests (R34, R556); the fields of an earlier get are copies (R85). That the rest of
the response and the fault mark stay as they are is the model's choice (log 14), and so are what a write of no
bytes and a write outside the buffer do (log 7) and the list of host steps (log 4). -/
def Obligations.HostWriteChangesOnlyItsBytes : Prop :=
  ∀ (s : State) (rest : List HostStep) (a : Nat) (bs : List Byte), s.pending = .write a bs :: rest →
    (a + bs.length ≤ s.cap.val → ∃ mem, step s = .next { s with pending := rest, mem := mem } ∧
      (∀ j (h : j < bs.length), mem.read (a + j) = bs[j]) ∧
      (∀ x, (x < a ∨ a + bs.length ≤ x) → mem.read x = s.mem.read x)) ∧
    (bs = [] → step s = .next { s with pending := rest }) ∧
    (bs ≠ [] → s.cap.val < a + bs.length → step s = .fault .hostWriteOutsideBuffer)

/-- The round trip (R159). -/
def Obligations.PutThenGetRoundTrip : Prop :=
  ∀ (k : Kind) (a : Args) (len0 n : Word) (s t : State), exec (putOf len0 a k) s = .next t →
    t.rsp.status = some .ok → lengthOf k a ≤ n.toNat → n.toNat ≤ s.cap.val →
    exec (getOf n k) t = .next { t with
      rsp := { status := some .ok, count := some (BitVec.ofNat 32 (lengthOf k a)), flag := none, muid := none,
               fields := some (recordOf k a) } } ∧
    ∀ j : Kind, exec (isOf n j) t = .next { t with
      rsp := { status := some .ok, count := none, flag := some (decide (j = k)), muid := none,
               fields := none } }

/-- The length laws (R160). -/
def Obligations.LengthLaws : Prop :=
  (∀ (len : Word) (a : Args) (k : Kind) (s t : State), exec (putOf len a k) s = .next t →
    t.rsp.status = some .ok → ∃ c : Word, t.rsp.count = some c ∧ c.toNat % 4 = 0 ∧ 16 ≤ c.toNat ∧
      t.mem.read (c.toNat - 4) = 0xF7 ∧ ∀ x, c.toNat ≤ x → t.mem.read x = s.mem.read x) ∧
  (∀ (len : Word) (k : Kind) (s t : State), exec (getOf len k) s = .next t →
    t.rsp.status = some .ok → ∃ c : Word, t.rsp.count = some c ∧ c.toNat % 4 = 0 ∧ 16 ≤ c.toNat ∧
      c.toNat ≤ len.toNat ∧ t.mem.read (c.toNat - 4) = 0xF7)

/-- What a get does not check (R158): the header's own bytes are arbitrary, `MessageHeld` says nothing of the
padding or of what lies past the message. -/
def Obligations.GetChecksNothingElse : Prop :=
  (∀ (k : Kind) (w : WireHeader) (bs : List Byte) (vs : List (FieldName × FieldValue)) (len : Word) (s : State),
    parseFields (fun p => bs[p]?) 0 (layout k) = some (vs, bs.length) → len.toNat ≤ s.cap.val →
    MessageHeld s.mem len.toNat (w.bytes k.subId ++ bs) →
    exec (getOf len k) s = .next { s with
      rsp := { status := some .ok, count := some (BitVec.ofNat 32 (messageLength (14 + bs.length))), flag := none,
               muid := none, fields := some (w.record vs) } }) ∧
  (∀ b : Bytes 4, muidOfWire (b.map (fun x => x &&& 0x7F)) = muidOfWire b) ∧
  (∀ (rd : Nat → Option Byte) (p : Nat) (t : Bytes 48), (∀ i (h : i < 48), rd (p + i) = some t[i]) →
    parseField rd p .pattern48 =
      some (.pattern (decide (t.toList = (List.range 48).map (BitVec.ofNat 8))), p + 48))

/-- Determinism of the operations (R161). -/
def Obligations.OperationsAreFunctionsOfTheirInputs : Prop :=
  (∀ (len : Word) (k : Kind) (s s' t t' : State), s.cap = s'.cap →
    (∀ x < len.toNat, s.mem.read x = s'.mem.read x) →
    (exec (getOf len k) s = .next t → exec (getOf len k) s' = .next t' → t.rsp = t'.rsp) ∧
    (exec (isOf len k) s = .next t → exec (isOf len k) s' = .next t' → t.rsp = t'.rsp)) ∧
  (∀ (len : Word) (a : Args) (k : Kind) (s s' t t' : State), s.cap = s'.cap →
    exec (putOf len a k) s = .next t → exec (putOf len a k) s' = .next t' →
    t.rsp = t'.rsp ∧ (t.rsp.status = some .ok → ∀ x < lengthOf k a, t.mem.read x = t'.mem.read x)) ∧
  (∀ (i : Instr) (s t : State) (d : Nat), i ≠ .generateMuid → exec i s = .next t →
    t.draws = s.draws ∧ exec i { s with draws := d } = .next { t with draws := d })

/-- Truncation (R162). -/
def Obligations.TruncatedMessagesFailToParse : Prop :=
  ∀ (len : Word) (k : Kind) (s : State), len.toNat ≤ s.cap.val →
    (len.toNat < minimumLength k → exec (getOf len k) s = .next { s with
      rsp := { status := some .parseError, count := some 0, flag := none, muid := none, fields := none } }) ∧
    (∀ (t : State) (c : Word) (b : Byte), exec (getOf len k) s = .next t → t.rsp.status = some .ok →
      t.rsp.count = some c → b ≠ 0xF7 →
      exec (getOf len k) { s with mem := s.mem.write (c.toNat - 4) b } = .next { s with
        mem := s.mem.write (c.toNat - 4) b
        rsp := { status := some .parseError, count := some 0, flag := none, muid := none, fields := none } })

/-- The pseudo-instruction `classify` (R108). -/
def Obligations.ClassifyFindsTheOneKind : Prop :=
  (∀ len : Word, classifySteps len = Kind.all.map fun k => HostStep.request (encode (isOf len k))) ∧
  (∀ (len : Word) (s : State), len.toNat ≤ s.cap.val → ∃ found t, classify len s = some (found, t) ∧
    t.mem = s.mem ∧ t.faultMark = s.faultMark ∧
    (∀ k : Kind, found = some k ↔ ∃ u, exec (isOf len k) s = .next u ∧ u.rsp.flag = some true) ∧
    (found = none ↔ ∀ k : Kind, ∃ u, exec (isOf len k) s = .next u ∧ u.rsp.flag = some false))

/-- Reset: the response, the mark and the wait for a request (R550); reset does not write the buffer (R551), so
the capacity and the content are arbitrary here. The empty `pending` list and the idle step that answers the
same state are the model's choice (log 4), and so are the capacity and the content of `State.reset` (log 1,
log 2). -/
def Obligations.ResetHoldsNoValueAndWaits : Prop :=
  (∀ (cap : BufCap) (mem : Memory),
    (∀ f, (State.resetWith cap mem).rsp.holds f = false) ∧ (State.resetWith cap mem).faultMark = false ∧
    (State.resetWith cap mem).pending = [] ∧ (State.resetWith cap mem).mem = mem ∧
    (State.resetWith cap mem).cap = cap ∧
    step (State.resetWith cap mem) = .next (State.resetWith cap mem)) ∧
  ∃ cap mem, State.reset = State.resetWith cap mem

/-- The invariant holds right after reset, whatever canonical content the buffer has. -/
def Obligations.ResetMeetsTheInvariant : Prop :=
  State.reset.Inv ∧
  ∀ (cap : BufCap) (mem : Memory), mem.wf → (∀ c ∈ mem, c.1 < cap.val) → (State.resetWith cap mem).Inv

/-- The invariant of Safety.lean is kept by every step: canonical memory inside the buffer (R34), a response
with the fields that go with its status and a MUID below `2^28` (R36, R40, R502), an error only beside a set
mark (R507). -/
def Obligations.EveryStepKeepsTheInvariant : Prop :=
  ∀ s t : State, s.Inv → step s = .next t → t.Inv

/-- The canonical form is canonical (R34; the form is the model's own). -/
def Obligations.EqualReadsMeanEqualMemories : Prop :=
  ∀ m m' : Memory, m.wf → m'.wf → (∀ a, m.read a = m'.read a) → m = m'
end

