-- ==== Sys2Proof/Laws/State.lean ====
section
/-! SUPPORT. What each update of the state leaves in each field: one lemma per field per update, so that no later
proof unfolds a record update. -/

namespace Sys2Proof.Machine

variable (s : State)

@[simp] theorem State.withMem_cap (m : Memory) : (s.withMem m).cap = s.cap := rfl
@[simp] theorem State.withMem_mem (m : Memory) : (s.withMem m).mem = m := rfl
@[simp] theorem State.withMem_rsp (m : Memory) : (s.withMem m).rsp = s.rsp := rfl
@[simp] theorem State.withMem_faultMark (m : Memory) : (s.withMem m).faultMark = s.faultMark := rfl
@[simp] theorem State.withMem_pending (m : Memory) : (s.withMem m).pending = s.pending := rfl
@[simp] theorem State.withMem_draws (m : Memory) : (s.withMem m).draws = s.draws := rfl

@[simp] theorem State.withRsp_cap (r : Response) : (s.withRsp r).cap = s.cap := rfl
@[simp] theorem State.withRsp_mem (r : Response) : (s.withRsp r).mem = s.mem := rfl
@[simp] theorem State.withRsp_rsp (r : Response) : (s.withRsp r).rsp = r := rfl
@[simp] theorem State.withRsp_faultMark (r : Response) : (s.withRsp r).faultMark = s.faultMark := rfl
@[simp] theorem State.withRsp_pending (r : Response) : (s.withRsp r).pending = s.pending := rfl
@[simp] theorem State.withRsp_draws (r : Response) : (s.withRsp r).draws = s.draws := rfl

@[simp] theorem State.marked_cap : s.marked.cap = s.cap := rfl
@[simp] theorem State.marked_mem : s.marked.mem = s.mem := rfl
@[simp] theorem State.marked_rsp : s.marked.rsp = s.rsp := rfl
@[simp] theorem State.marked_faultMark : s.marked.faultMark = true := rfl
@[simp] theorem State.marked_pending : s.marked.pending = s.pending := rfl
@[simp] theorem State.marked_draws : s.marked.draws = s.draws := rfl

@[simp] theorem State.withPending_cap (p : List HostStep) : (s.withPending p).cap = s.cap := rfl
@[simp] theorem State.withPending_mem (p : List HostStep) : (s.withPending p).mem = s.mem := rfl
@[simp] theorem State.withPending_rsp (p : List HostStep) : (s.withPending p).rsp = s.rsp := rfl
@[simp] theorem State.withPending_faultMark (p : List HostStep) : (s.withPending p).faultMark = s.faultMark := rfl
@[simp] theorem State.withPending_pending (p : List HostStep) : (s.withPending p).pending = p := rfl
@[simp] theorem State.withPending_draws (p : List HostStep) : (s.withPending p).draws = s.draws := rfl

@[simp] theorem State.drawn_cap : s.drawn.cap = s.cap := rfl
@[simp] theorem State.drawn_mem : s.drawn.mem = s.mem := rfl
@[simp] theorem State.drawn_rsp : s.drawn.rsp = s.rsp := rfl
@[simp] theorem State.drawn_faultMark : s.drawn.faultMark = s.faultMark := rfl
@[simp] theorem State.drawn_pending : s.drawn.pending = s.pending := rfl
@[simp] theorem State.drawn_draws : s.drawn.draws = s.draws + 1 := rfl

@[simp] theorem State.withRsp_withRsp (r r' : Response) : (s.withRsp r).withRsp r' = s.withRsp r' := rfl

@[simp] theorem State.withMem_withMem (m m' : Memory) : (s.withMem m).withMem m' = s.withMem m' := rfl

@[simp] theorem State.withRsp_withMem (r : Response) (m : Memory) :
    (s.withRsp r).withMem m = (s.withMem m).withRsp r := rfl

@[simp] theorem State.resetWith_cap (cap : BufCap) (m : Memory) : (State.resetWith cap m).cap = cap := rfl

@[simp] theorem State.resetWith_mem (cap : BufCap) (m : Memory) : (State.resetWith cap m).mem = m := rfl

@[simp] theorem State.resetWith_rsp (cap : BufCap) (m : Memory) :
    (State.resetWith cap m).rsp = Response.unheld := rfl

@[simp] theorem State.resetWith_faultMark (cap : BufCap) (m : Memory) :
    (State.resetWith cap m).faultMark = false := rfl

@[simp] theorem State.resetWith_pending (cap : BufCap) (m : Memory) : (State.resetWith cap m).pending = [] := rfl

@[simp] theorem State.resetWith_draws (cap : BufCap) (m : Memory) : (State.resetWith cap m).draws = 0 := rfl

end Sys2Proof.Machine
end

