-- ==== Sys2Proof/Laws/Memory.lean ====
section
/-! SUPPORT. The buffer memory: what a read finds after a write, that every memory operation keeps the canonical
form and the addresses it may touch, and the walk of the group cursor (spec/20_memory.md). -/

namespace Sys2Proof.Machine

/-! ## One byte -/

@[simp] theorem Memory.read_nil (a : Nat) : Memory.read [] a = Config.unlistedByte := rfl

theorem Memory.read_cons (c : Host.Cell) (m : Memory) (a : Nat) :
    Memory.read (c :: m) a = if c.1 = a then c.2 else Memory.read m a := rfl

theorem Memory.read_unlisted (m : Memory) (a : Nat) (h : ∀ c ∈ m, c.1 ≠ a) :
    m.read a = Config.unlistedByte := by
  induction m with
  | nil => rfl
  | cons c m ih =>
    rw [Memory.read_cons, if_neg (h c (by simp))]
    exact ih fun d hd => h d (by simp [hd])

theorem Memory.read_erase_same (m : Memory) (a : Nat) : (m.erase a).read a = Config.unlistedByte :=
  Memory.read_unlisted _ _ fun c hc => by simpa using (List.mem_filter.mp hc).2

theorem Memory.read_erase_other (m : Memory) {a b : Nat} (h : b ≠ a) : (m.erase a).read b = m.read b := by
  induction m with
  | nil => rfl
  | cons c m ih =>
    unfold Memory.erase at ih ⊢
    rw [List.filter_cons]
    split
    · rw [Memory.read_cons, Memory.read_cons, ih]
    · next hc =>
      have hca : c.1 = a := by simpa using hc
      rw [ih, Memory.read_cons, if_neg (by rw [hca]; exact h.symm)]

theorem Memory.read_insert_same (a : Nat) (v : Byte) (m : Memory) (h : ∀ c ∈ m, c.1 ≠ a) :
    (Memory.insert a v m).read a = v := by
  induction m with
  | nil => simp [Memory.insert, Memory.read_cons]
  | cons c m ih =>
    unfold Memory.insert
    split
    · simp [Memory.read_cons]
    · rw [Memory.read_cons, if_neg (h c (by simp))]
      exact ih fun d hd => h d (by simp [hd])

theorem Memory.read_insert_other {a b : Nat} (v : Byte) (m : Memory) (h : b ≠ a) :
    (Memory.insert a v m).read b = m.read b := by
  induction m with
  | nil => simp [Memory.insert, Memory.read_cons, h.symm]
  | cons c m ih =>
    unfold Memory.insert
    split
    · rw [Memory.read_cons, if_neg h.symm]
    · rw [Memory.read_cons, Memory.read_cons, ih]

/-- A read after a write to the same address gives the byte written (R72, R80). -/
@[simp] theorem Memory.read_write_same (m : Memory) (a : Nat) (v : Byte) : (m.write a v).read a = v := by
  unfold Memory.write
  split
  · next h => rw [Memory.read_erase_same, h]
  · exact Memory.read_insert_same _ _ _ fun c hc => by simpa using (List.mem_filter.mp hc).2

/-- A write leaves every other address alone. -/
theorem Memory.read_write_other (m : Memory) {a b : Nat} (v : Byte) (h : b ≠ a) :
    (m.write a v).read b = m.read b := by
  unfold Memory.write
  split
  · exact Memory.read_erase_other m h
  · rw [Memory.read_insert_other _ _ h, Memory.read_erase_other m h]

/-! ## The canonical form -/

theorem Memory.mem_insert {a : Nat} {v : Byte} {m : Memory} {c : Host.Cell} :
    c ∈ Memory.insert a v m ↔ c = (a, v) ∨ c ∈ m := by
  induction m with
  | nil => simp [Memory.insert]
  | cons d m ih =>
    unfold Memory.insert
    split
    · simp
    · rw [List.mem_cons, ih, List.mem_cons]
      tauto

theorem Memory.mem_write {m : Memory} {a : Nat} {v : Byte} {c : Host.Cell} (h : c ∈ m.write a v) :
    (c = (a, v) ∧ v ≠ Config.unlistedByte) ∨ c ∈ m := by
  unfold Memory.write at h
  split at h
  · exact .inr (List.mem_filter.mp h).1
  · next hv =>
    rcases Memory.mem_insert.mp h with h | h
    · exact .inl ⟨h, hv⟩
    · exact .inr (List.mem_filter.mp h).1

theorem Memory.pairwise_insert {a : Nat} {v : Byte} {m : Memory}
    (h : m.Pairwise fun c d => c.1 < d.1) (ha : ∀ c ∈ m, c.1 ≠ a) :
    (Memory.insert a v m).Pairwise fun c d => c.1 < d.1 := by
  induction m with
  | nil => simp [Memory.insert]
  | cons c m ih =>
    rw [List.pairwise_cons] at h
    unfold Memory.insert
    split
    · next hlt =>
      rw [List.pairwise_cons]
      refine ⟨fun d hd => ?_, List.pairwise_cons.mpr h⟩
      rcases List.mem_cons.mp hd with rfl | hd
      · exact hlt
      · exact Nat.lt_trans hlt (h.1 d hd)
    · next hlt =>
      rw [List.pairwise_cons]
      refine ⟨fun d hd => ?_, ih h.2 fun d hd => ha d (by simp [hd])⟩
      rcases Memory.mem_insert.mp hd with rfl | hd
      · have := ha c (by simp)
        show c.1 < a
        omega
      · exact h.1 d hd

/-- Writing one byte keeps the canonical form. -/
theorem Memory.wf_write {m : Memory} (a : Nat) (v : Byte) (h : m.wf) : (m.write a v).wf := by
  refine ⟨?_, fun c hc => ?_⟩
  · unfold Memory.write
    have he : (m.erase a).Pairwise fun c d => c.1 < d.1 := h.1.filter _
    split
    · exact he
    · exact Memory.pairwise_insert he fun c hc => by simpa using (List.mem_filter.mp hc).2
  · rcases Memory.mem_write hc with ⟨rfl, hv⟩ | hc
    · exact hv
    · exact h.2 c hc

theorem Memory.wf_nil : Memory.wf [] := ⟨List.Pairwise.nil, by simp⟩

/-- The memory of every reset state built from a canonical content is canonical; that of `State.reset` is. -/
theorem State.reset_mem_wf : State.reset.mem.wf := Memory.wf_nil

/-- Every listed address is below `n`. -/
abbrev Memory.Inside (m : Memory) (n : Nat) : Prop := ∀ c ∈ m, c.1 < n

theorem Memory.inside_write {m : Memory} {a n : Nat} {v : Byte} (h : m.Inside n) (ha : a < n) :
    (m.write a v).Inside n := by
  intro c hc
  rcases Memory.mem_write hc with ⟨rfl, _⟩ | hc
  · exact ha
  · exact h c hc

/-! ## Runs of bytes -/

@[simp] theorem Memory.writeFrom_nil (m : Memory) (a : Nat) : m.writeFrom a [] = m := rfl

theorem Memory.writeFrom_cons (m : Memory) (a : Nat) (b : Byte) (bs : List Byte) :
    m.writeFrom a (b :: bs) = (m.write a b).writeFrom (a + 1) bs := rfl

theorem Memory.wf_writeFrom {m : Memory} (bs : List Byte) (a : Nat) (h : m.wf) : (m.writeFrom a bs).wf := by
  induction bs generalizing m a with
  | nil => exact h
  | cons b bs ih => exact ih _ (Memory.wf_write _ _ h)

theorem Memory.inside_writeFrom {m : Memory} {n : Nat} (bs : List Byte) (a : Nat) (h : m.Inside n)
    (ha : bs = [] ∨ a + bs.length ≤ n) : (m.writeFrom a bs).Inside n := by
  induction bs generalizing m a with
  | nil => exact h
  | cons b bs ih =>
    simp only [List.length_cons, reduceCtorEq, false_or] at ha
    exact ih _ (Memory.inside_write h (by omega)) (.inr (by omega))

/-- Bytes written at consecutive addresses: the byte at each address below the first or past the last is as before. -/
theorem Memory.read_writeFrom_other (m : Memory) (bs : List Byte) {a b : Nat}
    (h : b < a ∨ a + bs.length ≤ b) : (m.writeFrom a bs).read b = m.read b := by
  induction bs generalizing m a with
  | nil => rfl
  | cons c bs ih =>
    simp only [List.length_cons] at h
    rw [Memory.writeFrom_cons, ih _ (by omega), Memory.read_write_other _ _ (by omega)]

/-- Bytes written at consecutive addresses are read back. -/
theorem Memory.read_writeFrom (m : Memory) (bs : List Byte) (a i : Nat) (h : i < bs.length) :
    (m.writeFrom a bs).read (a + i) = bs[i] := by
  induction bs generalizing m a i with
  | nil => simp at h
  | cons c bs ih =>
    rw [Memory.writeFrom_cons]
    cases i with
    | zero => rw [Memory.read_writeFrom_other _ _ (by omega)]; simp
    | succ i =>
      have := ih (m.write a c) (a + 1) i (by simpa using h)
      rwa [Nat.add_assoc, Nat.add_comm 1 i] at this

/-! ## Stream positions -/

theorem addrOf_addrOf (p : Nat) : addrOf (addrOf p) = p := by unfold addrOf; omega

theorem addrOf_inj {p q : Nat} : addrOf p = addrOf q ↔ p = q :=
  ⟨fun h => by rw [← addrOf_addrOf p, h, addrOf_addrOf], fun h => by rw [h]⟩

/-- An address lies in the first `k` groups exactly when its position does. -/
theorem addrOf_lt (p k : Nat) : addrOf p < 4 * k ↔ p < 4 * k := by unfold addrOf; omega

theorem addrOf_last (k : Nat) (h : 0 < k) : addrOf (4 * k - 1) = 4 * k - 4 := by unfold addrOf; omega

theorem cursorAddr_cursorAt (p : Nat) : cursorAddr (cursorAt p) = addrOf p := rfl

/-- One step of the cursor from the cursor of a position is the cursor of the next position. -/
theorem cursorAdvance_cursorAt (p : Nat) : cursorAdvance (cursorAt p) = cursorAt (p + 1) := by
  unfold cursorAdvance cursorAt
  simp only
  split
  · simp only [Cursor.mk.injEq]; omega
  · simp only [Cursor.mk.injEq]; omega

@[simp] theorem writeStream_nil (m : Memory) (p : Nat) : writeStream m p [] = m := rfl

theorem writeStream_cons (m : Memory) (p : Nat) (b : Byte) (bs : List Byte) :
    writeStream m p (b :: bs) = writeStream (m.write (addrOf p) b) (p + 1) bs := rfl

/-- Writing through the cursor of a position is writing the stream from that position. -/
theorem writeCursor_cursorAt (m : Memory) (p : Nat) (bs : List Byte) :
    writeCursor m (cursorAt p) bs = writeStream m p bs := by
  induction bs generalizing m p with
  | nil => rfl
  | cons b bs ih => rw [writeCursor, cursorAdvance_cursorAt, ih]; rfl

/-- Reading a MUID through the cursor of a position reads four consecutive positions. -/
theorem readMuid_cursorAt (m : Memory) (p : Nat) :
    readMuid m (cursorAt p) =
      muidFrom (m.read (addrOf p)) (m.read (addrOf (p + 1))) (m.read (addrOf (p + 2)))
        (m.read (addrOf (p + 3))) := by
  simp only [readMuid, cursorAdvance_cursorAt, cursorAddr_cursorAt]

theorem wf_writeStream {m : Memory} (bs : List Byte) (p : Nat) (h : m.wf) : (writeStream m p bs).wf := by
  induction bs generalizing m p with
  | nil => exact h
  | cons b bs ih => exact ih _ (Memory.wf_write _ _ h)

theorem inside_writeStream {m : Memory} {n : Nat} (bs : List Byte) (p : Nat) (h : m.Inside n)
    (hp : ∀ i < bs.length, addrOf (p + i) < n) : (writeStream m p bs).Inside n := by
  induction bs generalizing m p with
  | nil => exact h
  | cons b bs ih =>
    refine ih _ (Memory.inside_write h (by simpa using hp 0 (by simp))) fun i hi => ?_
    have := hp (i + 1) (by simpa using hi)
    rwa [← Nat.add_assoc, Nat.add_right_comm] at this

/-- A stream written from position `p` leaves the addresses of all other positions as they were. -/
theorem read_writeStream_other (m : Memory) (bs : List Byte) {p a : Nat}
    (h : ∀ i < bs.length, a ≠ addrOf (p + i)) : (writeStream m p bs).read a = m.read a := by
  induction bs generalizing m p with
  | nil => rfl
  | cons b bs ih =>
    rw [writeStream_cons, ih, Memory.read_write_other _ _ (by simpa using h 0 (by simp))]
    intro i hi
    have := h (i + 1) (by simpa using hi)
    rwa [← Nat.add_assoc, Nat.add_right_comm] at this

/-- A stream written from position `p` is read back at its positions. -/
theorem read_writeStream (m : Memory) (bs : List Byte) (p i : Nat) (h : i < bs.length) :
    (writeStream m p bs).read (addrOf (p + i)) = bs[i] := by
  induction bs generalizing m p i with
  | nil => simp at h
  | cons b bs ih =>
    rw [writeStream_cons]
    cases i with
    | zero =>
      rw [read_writeStream_other, Nat.add_zero, Memory.read_write_same]; rfl
      intro i _; rw [Ne, addrOf_inj]; omega
    | succ i =>
      have := ih (m.write (addrOf p) b) (p + 1) i (by simpa using h)
      rwa [Nat.add_assoc, Nat.add_comm 1 i] at this

theorem streamRead_eq_some {m : Memory} {len p : Nat} {b : Byte} :
    streamRead m len p = some b ↔ addrOf p < len ∧ m.read (addrOf p) = b := by
  unfold streamRead
  split <;> simp_all

/-- Two memories that agree below `len` give the same bounded reads (R75). -/
theorem streamRead_congr {m m' : Memory} {len : Nat} (h : ∀ a < len, m.read a = m'.read a) :
    streamRead m len = streamRead m' len := by
  funext p
  unfold streamRead
  split
  · next hp => rw [h _ hp]
  · rfl

end Sys2Proof.Machine
end

