-- ==== Sys2Proof/Laws/Operands.lean ====
section
/-! SUPPORT. The wire forms: the MUID packing and the integers read back what was written (R135, R136, R103); the
field parser of R155 said once, as a relation between the bytes it reads and the value it gives. -/

namespace Sys2Proof.Machine

/-! ## Integers -/

theorem ofBe16_split (v : Half) : ofBe16 (v.extractLsb' 8 8) (v.extractLsb' 0 8) = v := by
  unfold ofBe16
  apply BitVec.eq_of_getLsbD_eq
  intro i hi
  interval_cases i <;> simp

theorem ofBe32_split (v : Word) :
    ofBe32 (v.extractLsb' 24 8) (v.extractLsb' 16 8) (v.extractLsb' 8 8) (v.extractLsb' 0 8) = v := by
  unfold ofBe32
  apply BitVec.eq_of_getLsbD_eq
  intro i hi
  interval_cases i <;> simp

theorem be16_ofBe16 (b0 b1 : Byte) : be16 (ofBe16 b0 b1) = [b0, b1] := by
  simp only [be16, ofBe16, List.cons.injEq, and_true]
  constructor <;>
  · apply BitVec.eq_of_getLsbD_eq
    intro i hi
    interval_cases i <;> simp

theorem be32_ofBe32 (b0 b1 b2 b3 : Byte) : be32 (ofBe32 b0 b1 b2 b3) = [b0, b1, b2, b3] := by
  simp only [be32, ofBe32, List.cons.injEq, and_true]
  refine ⟨?_, ?_, ?_, ?_⟩ <;>
  · apply BitVec.eq_of_getLsbD_eq
    intro i hi
    interval_cases i <;> simp

/-! ## The MUID packing -/

theorem muid_high_bit {m : Word} (h : m.toNat < 2 ^ 28) (i : Nat) (hi : 28 ≤ i) : m.getLsbD i = false :=
  Nat.testBit_lt_two_pow (Nat.lt_of_lt_of_le h (Nat.pow_le_pow_right (by omega) hi))

/-- Unpacking undoes packing on legal MUIDs (R136). -/
theorem muidFrom_muidWire {m : Word} (h : m.toNat < 2 ^ 28) :
    muidFrom (muidW3 m) (muidW2 m) (muidW1 m) (muidW0 m) = m := by
  have h28 := muid_high_bit h 28 (by omega)
  have h29 := muid_high_bit h 29 (by omega)
  have h30 := muid_high_bit h 30 (by omega)
  have h31 := muid_high_bit h 31 (by omega)
  unfold muidFrom muidW3 muidW2 muidW1 muidW0
  apply BitVec.eq_of_getLsbD_eq
  intro i hi
  interval_cases i <;> simp_all

/-- Unpacking any four bytes gives a legal MUID (R136). -/
theorem muidFrom_lt (w3 w2 w1 w0 : Byte) : (muidFrom w3 w2 w1 w0).toNat < 2 ^ 28 := by
  have : muidFrom w3 w2 w1 w0 = muidFrom w3 w2 w1 w0 &&& 0x0FFFFFFF := by
    unfold muidFrom
    apply BitVec.eq_of_getLsbD_eq
    intro i hi
    interval_cases i <;> simp
  rw [this, BitVec.toNat_and]
  exact Nat.lt_of_le_of_lt Nat.and_le_right (by decide)

@[simp] theorem muidWire_length (m : Word) : (muidWire m).length = 4 := rfl

theorem muidInRange_iff {m : Word} : muidInRange m = true ↔ m.toNat < 2 ^ 28 := decide_eq_true_iff

/-! ## Counts -/

@[simp] theorem be16_length (v : Half) : (be16 v).length = 2 := rfl

@[simp] theorem be32_length (v : Word) : (be32 v).length = 4 := rfl

/-- How many bytes a count takes (R99). -/
def countSize : CountWidth → Nat
  | .w8 => 1
  | .w16 => 2
  | .w32 => 4

@[simp] theorem beCount_length (w : CountWidth) (c : Nat) : (beCount w c).length = countSize w := by
  cases w <;> rfl

@[simp] theorem testPattern_length : testPattern.length = 48 := rfl

@[simp] theorem recordsOf_length {n : Nat} (rs : List (Bytes n)) : (recordsOf rs).length = rs.length :=
  List.length_map _

@[simp] theorem recordsOfBytes_length (bs : List Byte) : (recordsOfBytes bs).length = bs.length :=
  List.length_map _

@[simp] theorem recordsOfBytes_flatten (bs : List Byte) : (recordsOfBytes bs).flatten = bs := by
  induction bs with
  | nil => rfl
  | cons b bs ih => simpa [recordsOfBytes] using ih

theorem length_of_mem_recordsOf {n : Nat} {rs : List (Bytes n)} {r : List Byte} (h : r ∈ recordsOf rs) :
    r.length = n := by
  obtain ⟨v, _, rfl⟩ := List.mem_map.mp h
  simp

theorem length_of_mem_recordsOfBytes {bs : List Byte} {r : List Byte} (h : r ∈ recordsOfBytes bs) :
    r.length = 1 := by
  obtain ⟨v, _, rfl⟩ := List.mem_map.mp h
  rfl

/-- Records of `n` bytes are the bytes of a list of `n`-byte vectors. -/
theorem exists_recordsOf {n : Nat} {rs : List (List Byte)} (h : ∀ r ∈ rs, r.length = n) :
    ∃ vs : List (Bytes n), rs = recordsOf vs := by
  induction rs with
  | nil => exact ⟨[], rfl⟩
  | cons r rs ih =>
    obtain ⟨vs, rfl⟩ := ih fun x hx => h x (by simp [hx])
    exact ⟨⟨⟨r⟩, h r (by simp)⟩ :: vs, rfl⟩

/-- Records of one byte are the bytes of a list. -/
theorem exists_recordsOfBytes {rs : List (List Byte)} (h : ∀ r ∈ rs, r.length = 1) :
    ∃ bs : List Byte, rs = recordsOfBytes bs := by
  induction rs with
  | nil => exact ⟨[], rfl⟩
  | cons r rs ih =>
    obtain ⟨bs, rfl⟩ := ih fun x hx => h x (by simp [hx])
    obtain ⟨b, rfl⟩ := List.length_eq_one_iff.mp (h r (by simp))
    exact ⟨b :: bs, rfl⟩

/-! ## Numbers as bytes -/

theorem bigEndian_length (n v : Nat) : (bigEndian n v).length = n := by
  induction n with
  | zero => rfl
  | succ n ih => rw [bigEndian, List.length_cons, ih]

theorem be16_eq_bigEndian (v : Half) : be16 v = bigEndian 2 v.toNat := by
  simp [be16, bigEndian, BitVec.extractLsb', Nat.shiftRight_eq_div_pow]

theorem be32_eq_bigEndian (v : Word) : be32 v = bigEndian 4 v.toNat := by
  simp [be32, bigEndian, BitVec.extractLsb', Nat.shiftRight_eq_div_pow]

theorem beCount_eq_bigEndian (w : CountWidth) (c : Nat) : beCount w c = bigEndian (countSize w) c := by
  cases w with
  | w8 => simp [beCount, countSize, bigEndian]
  | w16 =>
    rw [beCount, be16_eq_bigEndian]
    simp only [countSize, bigEndian, BitVec.toNat_ofNat, List.cons.injEq, and_true]
    constructor <;> (apply BitVec.eq_of_toNat_eq; simp only [BitVec.toNat_ofNat]; omega)
  | w32 =>
    rw [beCount, be32_eq_bigEndian]
    simp only [countSize, bigEndian, BitVec.toNat_ofNat, List.cons.injEq, and_true]
    refine ⟨?_, ?_, ?_, ?_⟩ <;> (apply BitVec.eq_of_toNat_eq; simp only [BitVec.toNat_ofNat]; omega)

/-! ## Reading -/

/-- The reader finds these bytes from position `p` on. -/
def Reads (rd : Nat → Option Byte) (p : Nat) (bs : List Byte) : Prop :=
  ∀ i (h : i < bs.length), rd (p + i) = some bs[i]

@[simp] theorem reads_nil (rd : Nat → Option Byte) (p : Nat) : Reads rd p [] ↔ True := by simp [Reads]

theorem reads_append {rd : Nat → Option Byte} {p : Nat} {as bs : List Byte} :
    Reads rd p (as ++ bs) ↔ Reads rd p as ∧ Reads rd (p + as.length) bs := by
  constructor
  · intro h
    refine ⟨fun i hi => ?_, fun i hi => ?_⟩
    · rw [h i (by simp; omega), List.getElem_append_left hi]
    · rw [Nat.add_assoc, h (as.length + i) (by simp; omega), List.getElem_append_right (by omega)]
      simp
  · rintro ⟨ha, hb⟩ i hi
    rw [List.getElem_append]
    split
    · next h => exact ha i h
    · next h =>
      have := hb (i - as.length) (by simp at hi; omega)
      rwa [Nat.add_assoc, Nat.add_sub_cancel' (by omega)] at this

theorem reads_cons {rd : Nat → Option Byte} {p : Nat} {b : Byte} {bs : List Byte} :
    Reads rd p (b :: bs) ↔ rd p = some b ∧ Reads rd (p + 1) bs := by
  rw [show b :: bs = [b] ++ bs from rfl, reads_append]
  simp [Reads]

theorem takeBytes_eq_some {rd : Nat → Option Byte} {p n : Nat} {bs : List Byte} :
    takeBytes rd p n = some bs ↔ bs.length = n ∧ Reads rd p bs := by
  induction n generalizing p bs with
  | zero =>
    rw [takeBytes, Option.some.injEq]
    constructor
    · rintro rfl; simp
    · exact fun h => (List.length_eq_zero_iff.mp h.1).symm
  | succ n ih =>
    rw [takeBytes]
    split
    · next h =>
      refine ⟨fun h' => by simp at h', fun ⟨hl, hr⟩ => ?_⟩
      obtain ⟨b, bs, rfl⟩ := List.exists_cons_of_length_eq_add_one hl
      simp [(reads_cons.mp hr).1] at h
    · next b h =>
      split
      · next h' =>
        refine ⟨fun h => by simp at h, fun ⟨hl, hr⟩ => ?_⟩
        obtain ⟨b, bs, rfl⟩ := List.exists_cons_of_length_eq_add_one hl
        rw [ih.mpr ⟨by simpa using hl, (reads_cons.mp hr).2⟩] at h'
        simp at h'
      · next bs' h' =>
        rw [Option.some.injEq]
        obtain ⟨hl', hr'⟩ := ih.mp h'
        constructor
        · rintro rfl
          exact ⟨by simp [hl'], reads_cons.mpr ⟨h, hr'⟩⟩
        · rintro ⟨hl, hr⟩
          obtain ⟨c, cs, rfl⟩ := List.exists_cons_of_length_eq_add_one hl
          obtain ⟨hc, hcs⟩ := reads_cons.mp hr
          have := ih.mpr ⟨by simpa using hl, hcs⟩
          rw [h'] at this
          simp_all

theorem takeBytes_of_reads {rd : Nat → Option Byte} {p : Nat} {bs : List Byte} (n : Nat)
    (hl : bs.length = n) (hr : Reads rd p bs) : takeBytes rd p n = some bs :=
  takeBytes_eq_some.mpr ⟨hl, hr⟩

theorem takeRecords_eq_some {rd : Nat → Option Byte} {k p c : Nat} {rs : List (List Byte)} :
    takeRecords rd k p c = some rs ↔ rs.length = c ∧ (∀ r ∈ rs, r.length = k) ∧ Reads rd p rs.flatten := by
  induction c generalizing p rs with
  | zero =>
    rw [takeRecords, Option.some.injEq]
    constructor
    · rintro rfl; simp
    · exact fun h => (List.length_eq_zero_iff.mp h.1).symm
  | succ c ih =>
    rw [takeRecords]
    constructor
    · intro h
      split at h
      · simp at h
      · next r hr =>
        split at h
        · simp at h
        · next rs' hrs =>
          obtain rfl := Option.some.inj h
          obtain ⟨h1, h2, h3⟩ := ih.mp hrs
          obtain ⟨hl, hb⟩ := takeBytes_eq_some.mp hr
          refine ⟨by simp [h1], by simpa [hl] using h2, ?_⟩
          rw [List.flatten_cons, reads_append, hl]
          exact ⟨hb, h3⟩
    · rintro ⟨h1, h2, h3⟩
      obtain ⟨r, rs, rfl⟩ := List.exists_cons_of_length_eq_add_one h1
      have hl := h2 r (by simp)
      rw [List.flatten_cons, reads_append, hl] at h3
      rw [takeBytes_eq_some.mpr ⟨hl, h3.1⟩]
      simp only
      rw [ih.mpr ⟨by simpa using h1, fun x hx => h2 x (by simp [hx]), h3.2⟩]

theorem takeCount_eq_some {rd : Nat → Option Byte} {p c p' : Nat} {w : CountWidth} :
    takeCount rd p w = some (c, p') ↔ c < 2 ^ countBits w ∧ Reads rd p (beCount w c) ∧ p' = p + countSize w := by
  cases w with
  | w8 =>
    simp only [takeCount, countBits, beCount, countSize]
    constructor
    · intro h
      split at h
      · next b0 hb =>
        obtain ⟨rfl, rfl⟩ := Prod.mk.inj (Option.some.inj h)
        refine ⟨b0.isLt, ?_, rfl⟩
        rw [BitVec.ofNat_toNat, BitVec.setWidth_eq]
        exact (takeBytes_eq_some.mp hb).2
      · simp at h
    · rintro ⟨hc, hr, rfl⟩
      rw [takeBytes_of_reads 1 rfl hr]
      simpa using hc
  | w16 =>
    simp only [takeCount, countBits, beCount, countSize]
    constructor
    · intro h
      split at h
      · next b0 b1 hb =>
        obtain ⟨rfl, rfl⟩ := Prod.mk.inj (Option.some.inj h)
        refine ⟨(ofBe16 b0 b1).isLt, ?_, rfl⟩
        rw [BitVec.ofNat_toNat, BitVec.setWidth_eq, be16_ofBe16]
        exact (takeBytes_eq_some.mp hb).2
      · simp at h
    · rintro ⟨hc, hr, rfl⟩
      rw [takeBytes_of_reads 2 rfl hr, be16]
      simp only [ofBe16_split, BitVec.toNat_ofNat, Nat.mod_eq_of_lt hc]
  | w32 =>
    simp only [takeCount, countBits, beCount, countSize]
    constructor
    · intro h
      split at h
      · next b0 b1 b2 b3 hb =>
        obtain ⟨rfl, rfl⟩ := Prod.mk.inj (Option.some.inj h)
        refine ⟨(ofBe32 b0 b1 b2 b3).isLt, ?_, rfl⟩
        rw [BitVec.ofNat_toNat, BitVec.setWidth_eq, be32_ofBe32]
        exact (takeBytes_eq_some.mp hb).2
      · simp at h
    · rintro ⟨hc, hr, rfl⟩
      rw [takeBytes_of_reads 4 rfl hr, be32]
      simp only [ofBe32_split, BitVec.toNat_ofNat, Nat.mod_eq_of_lt hc]

/-! ## The field parser -/

/-- The bytes `bs` are a wire form of a field of this type, and a parse of them gives the value `v` (R99, R103). -/
def WireField : FieldType → List Byte → FieldValue → Prop
  | .u8, bs, v => ∃ b, bs = [b] ∧ v = .u8 b
  | .u16, bs, v => ∃ b0 b1, bs = [b0, b1] ∧ v = .u16 (ofBe16 b0 b1)
  | .u32, bs, v => ∃ b0 b1 b2 b3, bs = [b0, b1, b2, b3] ∧ v = .u32 (ofBe32 b0 b1 b2 b3)
  | .bytes n, bs, v => bs.length = n ∧ v = .bytes bs
  | .muid, bs, v => ∃ w3 w2 w1 w0, bs = [w3, w2, w1, w0] ∧ v = .muid (muidFrom w3 w2 w1 w0)
  | .list w k, bs, v => ∃ rs : List (List Byte), (∀ r ∈ rs, r.length = k) ∧ rs.length < 2 ^ countBits w ∧
      bs = beCount w rs.length ++ rs.flatten ∧ v = .records w rs
  | .pattern48, bs, v => bs.length = 48 ∧ v = .pattern (bs == testPattern)

/-- The bytes `bs` are the wire forms of the fields of a layout, one after the other (R151). -/
def WireFields : List (FieldName × FieldType) → List Byte → List (FieldName × FieldValue) → Prop
  | [], bs, vs => bs = [] ∧ vs = []
  | (name, ty) :: rest, bs, vs =>
    ∃ b1 b2 v vs', bs = b1 ++ b2 ∧ vs = (name, v) :: vs' ∧ WireField ty b1 v ∧ WireFields rest b2 vs'

theorem takeMuid_eq_some {rd : Nat → Option Byte} {p : Nat} {m : Word} :
    takeMuid rd p = some m ↔
      ∃ w3 w2 w1 w0, Reads rd p [w3, w2, w1, w0] ∧ m = muidFrom w3 w2 w1 w0 := by
  unfold takeMuid
  constructor
  · intro h
    split at h
    · next w3 w2 w1 w0 hb =>
      exact ⟨w3, w2, w1, w0, (takeBytes_eq_some.mp hb).2, (Option.some.inj h).symm⟩
    · simp at h
  · rintro ⟨w3, w2, w1, w0, hr, rfl⟩
    rw [takeBytes_of_reads 4 rfl hr]

theorem flatten_length_of_forall {k : Nat} {rs : List (List Byte)} (h : ∀ r ∈ rs, r.length = k) :
    rs.flatten.length = k * rs.length := by
  induction rs with
  | nil => simp
  | cons r rs ih =>
    rw [List.flatten_cons, List.length_append, ih fun x hx => h x (by simp [hx]), h r (by simp),
      List.length_cons]
    ring

/-- The field parser gives a value exactly when the bytes at `p` are a wire form of it (R155). -/
theorem parseField_eq_some {rd : Nat → Option Byte} {p q : Nat} {ty : FieldType} {v : FieldValue} :
    parseField rd p ty = some (v, q) ↔ ∃ bs, WireField ty bs v ∧ Reads rd p bs ∧ q = p + bs.length := by
  cases ty with
  | u8 =>
    simp only [parseField, WireField]
    constructor
    · intro h
      split at h
      · next b0 hb =>
        obtain ⟨rfl, rfl⟩ := Prod.mk.inj (Option.some.inj h)
        exact ⟨_, ⟨b0, rfl, rfl⟩, (takeBytes_eq_some.mp hb).2, rfl⟩
      · simp at h
    · rintro ⟨_, ⟨b, rfl, rfl⟩, hr, rfl⟩
      rw [takeBytes_of_reads 1 rfl hr]; rfl
  | u16 =>
    simp only [parseField, WireField]
    constructor
    · intro h
      split at h
      · next b0 b1 hb =>
        obtain ⟨rfl, rfl⟩ := Prod.mk.inj (Option.some.inj h)
        exact ⟨_, ⟨b0, b1, rfl, rfl⟩, (takeBytes_eq_some.mp hb).2, rfl⟩
      · simp at h
    · rintro ⟨_, ⟨b0, b1, rfl, rfl⟩, hr, rfl⟩
      rw [takeBytes_of_reads 2 rfl hr]; rfl
  | u32 =>
    simp only [parseField, WireField]
    constructor
    · intro h
      split at h
      · next b0 b1 b2 b3 hb =>
        obtain ⟨rfl, rfl⟩ := Prod.mk.inj (Option.some.inj h)
        exact ⟨_, ⟨b0, b1, b2, b3, rfl, rfl⟩, (takeBytes_eq_some.mp hb).2, rfl⟩
      · simp at h
    · rintro ⟨_, ⟨b0, b1, b2, b3, rfl, rfl⟩, hr, rfl⟩
      rw [takeBytes_of_reads 4 rfl hr]; rfl
  | bytes n =>
    simp only [parseField, WireField]
    constructor
    · intro h
      split at h
      · next bs hb =>
        obtain ⟨rfl, rfl⟩ := Prod.mk.inj (Option.some.inj h)
        obtain ⟨hl, hr⟩ := takeBytes_eq_some.mp hb
        exact ⟨bs, ⟨hl, rfl⟩, hr, by rw [hl]⟩
      · simp at h
    · rintro ⟨bs, ⟨rfl, rfl⟩, hr, rfl⟩
      rw [takeBytes_eq_some.mpr ⟨rfl, hr⟩]
  | muid =>
    simp only [parseField, WireField]
    constructor
    · intro h
      split at h
      · next m hm =>
        obtain ⟨rfl, rfl⟩ := Prod.mk.inj (Option.some.inj h)
        obtain ⟨w3, w2, w1, w0, hr, rfl⟩ := takeMuid_eq_some.mp hm
        exact ⟨_, ⟨w3, w2, w1, w0, rfl, rfl⟩, hr, rfl⟩
      · simp at h
    · rintro ⟨_, ⟨w3, w2, w1, w0, rfl, rfl⟩, hr, rfl⟩
      rw [takeMuid_eq_some.mpr ⟨_, _, _, _, hr, rfl⟩]; rfl
  | list w k =>
    simp only [parseField, WireField]
    constructor
    · intro h
      split at h
      · simp at h
      · next c p' hc =>
        split at h
        · next rs hrs =>
          obtain ⟨rfl, rfl⟩ := Prod.mk.inj (Option.some.inj h)
          obtain ⟨hlt, hr, rfl⟩ := takeCount_eq_some.mp hc
          obtain ⟨rfl, hk, hrs⟩ := takeRecords_eq_some.mp hrs
          refine ⟨_, ⟨rs, hk, hlt, rfl, rfl⟩, ?_, ?_⟩
          · rw [reads_append, beCount_length]
            exact ⟨hr, hrs⟩
          · rw [List.length_append, beCount_length, flatten_length_of_forall hk]; omega
        · simp at h
    · rintro ⟨_, ⟨rs, hk, hlt, rfl, rfl⟩, hr, rfl⟩
      rw [reads_append, beCount_length] at hr
      rw [takeCount_eq_some.mpr ⟨hlt, hr.1, rfl⟩]
      simp only
      rw [takeRecords_eq_some.mpr ⟨rfl, hk, hr.2⟩]
      simp only [List.length_append, beCount_length, flatten_length_of_forall hk, Option.some.injEq,
        Prod.mk.injEq, true_and]
      omega
  | pattern48 =>
    simp only [parseField, WireField]
    constructor
    · intro h
      split at h
      · next bs hb =>
        obtain ⟨rfl, rfl⟩ := Prod.mk.inj (Option.some.inj h)
        obtain ⟨hl, hr⟩ := takeBytes_eq_some.mp hb
        exact ⟨bs, ⟨hl, rfl⟩, hr, by rw [hl]⟩
      · simp at h
    · rintro ⟨bs, ⟨hl, rfl⟩, hr, rfl⟩
      rw [takeBytes_eq_some.mpr ⟨hl, hr⟩]
      simp only [hl]

theorem parseFields_eq_some {rd : Nat → Option Byte} {p q : Nat} {lay : List (FieldName × FieldType)}
    {vs : List (FieldName × FieldValue)} :
    parseFields rd p lay = some (vs, q) ↔ ∃ bs, WireFields lay bs vs ∧ Reads rd p bs ∧ q = p + bs.length := by
  induction lay generalizing p q vs with
  | nil =>
    simp only [parseFields, WireFields, Option.some.injEq, Prod.mk.injEq]
    constructor
    · rintro ⟨rfl, rfl⟩; exact ⟨[], ⟨rfl, rfl⟩, by simp, rfl⟩
    · rintro ⟨_, ⟨rfl, rfl⟩, _, rfl⟩; exact ⟨rfl, rfl⟩
  | cons f rest ih =>
    obtain ⟨name, ty⟩ := f
    simp only [parseFields, WireFields]
    constructor
    · intro h
      split at h
      · simp at h
      · next v p' hf =>
        split at h
        · simp at h
        · next vs' p'' hrest =>
          obtain ⟨rfl, rfl⟩ := Prod.mk.inj (Option.some.inj h)
          obtain ⟨b1, hw1, hr1, rfl⟩ := parseField_eq_some.mp hf
          obtain ⟨b2, hw2, hr2, rfl⟩ := ih.mp hrest
          refine ⟨_, ⟨b1, b2, v, vs', rfl, rfl, hw1, hw2⟩, reads_append.mpr ⟨hr1, hr2⟩, ?_⟩
          rw [List.length_append, Nat.add_assoc]
    · rintro ⟨_, ⟨b1, b2, v, vs', rfl, rfl, hw1, hw2⟩, hr, rfl⟩
      obtain ⟨hr1, hr2⟩ := reads_append.mp hr
      rw [parseField_eq_some.mpr ⟨b1, hw1, hr1, rfl⟩]
      simp only
      rw [ih.mpr ⟨b2, hw2, hr2, rfl⟩]
      simp only [List.length_append, Nat.add_assoc]

end Sys2Proof.Machine
end

