-- ==== Sys2Proof/Laws/Messages.lean ====
section
/-! SUPPORT. What each shared operation of Ops.lean can do, said once (spec/41_framing.md, spec/60_exceptions.md):
the responses, the generic encode, decode and classify, and how the instructions reach them. -/

namespace Sys2Proof.Machine

/-! ## Lengths -/

theorem messageLength_eq (q : Nat) : messageLength q = 4 * ((q + 4) / 4) := rfl

theorem lt_messageLength (q : Nat) : q < messageLength q := by unfold messageLength; omega

theorem messageLength_le (q : Nat) : messageLength q ≤ q + 4 := by unfold messageLength; omega

theorem messageLength_mod (q : Nat) : messageLength q % 4 = 0 := by unfold messageLength; omega

theorem messageLength_mono {p q : Nat} (h : p ≤ q) : messageLength p ≤ messageLength q := by
  unfold messageLength; omega

@[simp] theorem frameMessage_length (s : List Byte) : (frameMessage s).length = messageLength s.length := by
  have := lt_messageLength s.length
  simp only [frameMessage, List.length_append, List.length_replicate, List.length_cons, List.length_nil]
  omega

theorem frameMessage_body (s : List Byte) (p : Nat) (h : p < s.length) :
    (frameMessage s)[p]? = some s[p] := by
  simp only [frameMessage]
  rw [List.append_assoc, List.getElem?_append_left h, List.getElem?_eq_getElem h]

theorem frameMessage_padding (s : List Byte) (p : Nat) (h : s.length ≤ p) (h' : p + 1 < messageLength s.length) :
    (frameMessage s)[p]? = some 0 := by
  simp only [frameMessage]
  rw [List.append_assoc, List.getElem?_append_right h, List.getElem?_append_left (by simp; omega),
    List.getElem?_replicate_of_lt (by omega)]

theorem frameMessage_terminator (s : List Byte) :
    (frameMessage s)[messageLength s.length - 1]? = some 0xF7 := by
  have := lt_messageLength s.length
  simp only [frameMessage]
  rw [List.getElem?_append_right (by simp; omega)]
  simp only [List.length_append, List.length_replicate]
  rw [show messageLength s.length - 1 - (s.length + (messageLength s.length - 1 - s.length)) = 0 by omega]
  rfl

theorem emitHeader_length (k : Kind) (h : Header) (d : Option Word) : (emitHeader k h d).length = 14 := rfl

theorem emitHeader_none (k : Kind) (h : Header) :
    emitHeader k h none = headerBytes k.subId h broadcastMuid := rfl

theorem emitHeader_some (k : Kind) (h : Header) (d : Word) :
    emitHeader k h (some d) = headerBytes k.subId h d := rfl

/-! ## Responses -/

theorem respond_eq_next {r : Response} {s t : State} : respond r s = .next t ↔ t = s.withRsp r := by
  simp only [respond, Host.Outcome.next.injEq]
  exact eq_comm

theorem raise_eq_next {e : Status} {s t : State} : raise e s = .next t ↔ t = errorState s e := by
  simp only [raise, Host.Outcome.next.injEq]
  exact eq_comm

theorem raise_eq (e : Status) (s : State) : raise e s = .next (errorState s e) := rfl

/-! ## The generic encode -/

/-- A put writes exactly the framed message (R154 step 3). -/
theorem putDone_of_write (s : State) (body : List Byte) :
    PutDone s ((s.withMem (writeStream s.mem 0 (frameMessage body))).withRsp
      (Response.put (messageLength body.length))) body := by
  have hlt := lt_messageLength body.length
  have hread : ∀ p b, (frameMessage body)[p]? = some b →
      (writeStream s.mem 0 (frameMessage body)).read (addrOf p) = b := by
    intro p b hb
    obtain ⟨hp, rfl⟩ := List.getElem?_eq_some_iff.mp hb
    simpa using read_writeStream s.mem (frameMessage body) 0 p hp
  refine ⟨rfl, fun p hp => hread _ _ (frameMessage_body _ _ hp),
    fun p hp hp' => hread _ _ (frameMessage_padding _ _ hp hp'), ?_, fun a ha => ?_, rfl, rfl, rfl, rfl⟩
  · have := hread _ _ (frameMessage_terminator body)
    rwa [messageLength_eq, addrOf_last _ (by omega)] at this
  · refine read_writeStream_other _ _ fun i hi => ?_
    rw [frameMessage_length, messageLength_eq] at hi
    have := (addrOf_lt (0 + i) ((body.length + 4) / 4)).mpr (by omega)
    omega

/-- The generic encode has the outcomes of R154. -/
theorem putMessage_outcome (k : Kind) (len : Word) (h : Header) (d : Option Word) (payload : List FieldValue)
    (s : State) :
    PutOutcome (headerInRange h d = true ∧ payload.all fieldInRange = true) len
      (emitHeader k h d ++ emitFields payload) s (putMessage k len h d payload s) := by
  have hin : (headerInRange h d && payload.all fieldInRange) = true ↔
      headerInRange h d = true ∧ payload.all fieldInRange = true := Bool.and_eq_true_iff
  refine ⟨fun hr => ?_, fun hr hc => ?_, fun hr hl hL => ?_⟩
  · rw [putMessage, if_pos (by rw [Bool.not_eq_true', ← Bool.not_eq_true, hin]; exact hr)]
    rfl
  · rw [putMessage, if_neg (by rw [hin.mpr hr]; simp)]
    split
    · rfl
    · next hcap =>
      simp only
      rw [if_pos]; rfl
      rcases hc with hc | hc
      · exact absurd hc hcap
      · exact hc
  · refine ⟨_, ?_, putDone_of_write s _⟩
    rw [putMessage, if_neg (by rw [hin.mpr hr]; simp), if_neg (by omega)]
    simp only
    rw [if_neg (by rw [messageLength_eq]; omega)]
    rfl

/-- If a put answers a next state, it is one of the three R154 gives. -/
theorem putMessage_next {k : Kind} {len : Word} {h : Header} {d : Option Word} {payload : List FieldValue}
    {s t : State} (ht : putMessage k len h d payload s = .next t) :
    (t = errorState s .overflowError ∧ ¬ (headerInRange h d = true ∧ payload.all fieldInRange = true)) ∨
    (t = errorState s .capacityError ∧
      (s.cap.val < len.toNat ∨ len.toNat < messageLength (14 + (emitFields payload).length))) ∨
    (len.toNat ≤ s.cap.val ∧ messageLength (14 + (emitFields payload).length) ≤ len.toNat ∧
      headerInRange h d = true ∧ payload.all fieldInRange = true ∧
      t = (s.withMem (writeStream s.mem 0 (frameMessage (emitHeader k h d ++ emitFields payload)))).withRsp
        (Response.put (messageLength (14 + (emitFields payload).length)))) := by
  unfold putMessage at ht
  split at ht
  · next hr =>
    exact .inl ⟨raise_eq_next.mp ht, fun ⟨h1, h2⟩ => by simp [h1, h2] at hr⟩
  · next hr =>
    have hr' : headerInRange h d = true ∧ payload.all fieldInRange = true := by
      rw [← Bool.and_eq_true_iff]; simpa using hr
    split at ht
    · next hc => exact .inr (.inl ⟨raise_eq_next.mp ht, .inl hc⟩)
    · next hc =>
      simp only [List.length_append, emitHeader_length] at ht
      split at ht
      · next hl => exact .inr (.inl ⟨raise_eq_next.mp ht, .inr hl⟩)
      · next hl => exact .inr (.inr ⟨by omega, by omega, hr'.1, hr'.2, respond_eq_next.mp ht⟩)

/-! ## The generic decode -/

/-- The bytes of a message of kind `k` from its first byte to its last payload byte, and the record a get makes
of them (R150, R157). -/
def WireMessage (k : Kind) (body : List Byte) (r : Record) : Prop :=
  ∃ (w : WireHeader) (bs : List Byte) (vs : List (FieldName × FieldValue)),
    WireFields (layout k) bs vs ∧ body = w.bytes k.subId ++ bs ∧ r = w.record vs

@[simp] theorem wireHeader_length (w : WireHeader) (b : Byte) : (w.bytes b).length = 14 := by
  simp [WireHeader.bytes]

theorem reads_stream {m : Memory} {len : Nat} {body : List Byte} (hl : messageLength body.length ≤ len) :
    Reads (streamRead m len) 0 body ↔ StreamBegins m body := by
  constructor
  · intro h p hp
    simpa using (streamRead_eq_some.mp (h p hp)).2
  · intro h p hp
    rw [Nat.zero_add]
    refine streamRead_eq_some.mpr ⟨?_, h p hp⟩
    have := lt_messageLength body.length
    rw [messageLength_eq] at *
    exact Nat.lt_of_lt_of_le ((addrOf_lt p _).mpr (by omega)) hl

theorem headerMatches_iff {k : Kind} {len : Nat} {rd : Nat → Byte} :
    headerMatches k len rd = true ↔
      8 ≤ len ∧ rd 3 = 0xF0 ∧ rd 2 = 0x7E ∧ rd 0 = 0x0D ∧ rd 7 = k.subId := by
  simp only [headerMatches, Bool.and_eq_true, decide_eq_true_eq, beq_iff_eq, and_assoc]

/-- The header bytes of `HeaderMatches` and the reads of R157 say together that the stream begins with a header. -/
theorem wireHeader_reads {k : Kind} {m : Memory} {len : Nat} {r : Record} {q : Nat}
    (hm : headerMatches k len m.read = true) (hr : parseRecord (streamRead m len) k = some (r, q)) :
    ∃ body, WireMessage k body r ∧ Reads (streamRead m len) 0 body ∧ q = body.length := by
  obtain ⟨h8, h3, h2, h0, h7⟩ := headerMatches_iff.mp hm
  unfold parseRecord at hr
  split at hr
  · next dev ver src dst vs q' hdev hver hsrc hdst hfs =>
    obtain ⟨rfl, rfl⟩ := Prod.mk.inj (Option.some.inj hr)
    obtain ⟨bs, hw, hbs, rfl⟩ := parseFields_eq_some.mp hfs
    obtain ⟨a3, a2, a1, a0, hsr, rfl⟩ := takeMuid_eq_some.mp hsrc
    obtain ⟨d3, d2, d1, d0, hdr, rfl⟩ := takeMuid_eq_some.mp hdst
    have hk : ∀ p b, addrOf p < len → m.read (addrOf p) = b → streamRead m len p = some b :=
      fun p b h1 h2 => streamRead_eq_some.mpr ⟨h1, h2⟩
    refine ⟨_, ⟨⟨dev, ver, #v[a3, a2, a1, a0], #v[d3, d2, d1, d0]⟩, bs, vs, hw, rfl, rfl⟩, ?_, ?_⟩
    · rw [reads_append]
      refine ⟨?_, by simpa using hbs⟩
      simp only [WireHeader.bytes, reads_append, reads_cons] at *
      refine ⟨⟨⟨hk 0 _ (show 3 < len by omega) h3, hk 1 _ (show 2 < len by omega) h2, hdev,
        hk 3 _ (show 0 < len by omega) h0, hk 4 _ (show 7 < len by omega) h7, hver, by simp⟩, ?_⟩, ?_⟩
      · exact reads_cons.mpr ⟨hsr.1, reads_cons.mpr ⟨hsr.2.1, reads_cons.mpr ⟨hsr.2.2.1, reads_cons.mpr ⟨hsr.2.2.2.1, by simp⟩⟩⟩⟩
      · exact reads_cons.mpr ⟨hdr.1, reads_cons.mpr ⟨hdr.2.1, reads_cons.mpr ⟨hdr.2.2.1, reads_cons.mpr ⟨hdr.2.2.2.1, by simp⟩⟩⟩⟩
    · simp
  · simp at hr

/-- The decode of R157 gives a record exactly when the buffer holds a message of the kind within `len`. -/
theorem parseMessage_eq_some {k : Kind} {len : Nat} {m : Memory} {r : Record} {c : Nat} :
    parseMessage k len m = some (r, c) ↔
      ∃ body, WireMessage k body r ∧ MessageHeld m len body ∧ c = messageLength body.length := by
  unfold parseMessage
  constructor
  · intro h
    split at h
    · next hm =>
      split at h
      · simp at h
      · next r' q hr =>
        split at h
        · simp at h
        · next hl =>
          split at h
          · next ht =>
            obtain ⟨rfl, rfl⟩ := Prod.mk.inj (Option.some.inj h)
            obtain ⟨body, hw, hrd, rfl⟩ := wireHeader_reads hm hr
            have hl' : messageLength body.length ≤ len := by omega
            refine ⟨body, hw, ⟨(reads_stream hl').mp hrd, hl', ?_⟩, rfl⟩
            have := (streamRead_eq_some.mp ht).2
            rwa [messageLength_eq, addrOf_last _ (by omega)] at this
          · simp at h
    · simp at h
  · rintro ⟨body, ⟨w, bs, vs, hw, rfl, rfl⟩, ⟨hs, hl, ht⟩, rfl⟩
    rw [← messageLength_eq] at hl
    have hrd := (reads_stream hl).mpr hs
    obtain ⟨hh, hbs⟩ := reads_append.mp hrd
    have hlen := lt_messageLength (w.bytes k.subId ++ bs).length
    simp only [List.length_append, wireHeader_length] at hlen hl
    have hh' := hh
    unfold WireHeader.bytes at hh
    obtain ⟨⟨hpre, hsrc⟩, hdst⟩ := by simpa only [reads_append] using hh
    obtain ⟨p0, p1, p2, p3, p4, p5, _⟩ := by simpa only [reads_cons] using hpre
    have hm : headerMatches k len m.read = true := by
      rw [headerMatches_iff]
      exact ⟨by omega, (streamRead_eq_some.mp p0).2, (streamRead_eq_some.mp p1).2,
        (streamRead_eq_some.mp p3).2, (streamRead_eq_some.mp p4).2⟩
    have hmuid : ∀ (p : Nat) (b : Bytes 4), Reads (streamRead m len) p b.toList →
        takeMuid (streamRead m len) p = some (muidOfWire b) := by
      intro p b hb
      refine takeMuid_eq_some.mpr ⟨b[0], b[1], b[2], b[3], ?_, rfl⟩
      have : b.toList = [b[0], b[1], b[2], b[3]] := by
        apply List.ext_getElem
        · simp
        · intro i h1 h2
          simp only [List.length_cons, List.length_nil] at h2
          interval_cases i <;> simp
      rwa [← this]
    have hrec : parseRecord (streamRead m len) k = some (w.record vs, 14 + bs.length) := by
      unfold parseRecord
      simp only [List.length_append, List.length_cons, List.length_nil, Vector.length_toList] at hsrc hdst
      rw [p2, p5, hmuid 6 _ hsrc, hmuid 10 _ hdst,
        parseFields_eq_some.mpr ⟨bs, hw, by simpa using hbs, rfl⟩]
      rfl
    rw [if_pos hm, hrec]
    simp only
    have hterm : streamRead m len (messageLength (14 + bs.length) - 1) = some 0xF7 := by
      rw [streamRead_eq_some, messageLength_eq, addrOf_last _ (by omega)]
      rw [messageLength_eq] at hl
      simp only [List.length_append, wireHeader_length] at ht
      exact ⟨by omega, ht⟩
    rw [if_neg (by omega), if_pos hterm]
    simp

/-- At most one message of a kind stands in the buffer: the bytes determine it. -/
theorem getMessage_eq (k : Kind) (len : Word) (s : State) :
    (s.cap.val < len.toNat → getMessage k len s = .next (errorState s .capacityError)) ∧
    (len.toNat ≤ s.cap.val → ∀ body r, WireMessage k body r → MessageHeld s.mem len.toNat body →
      getMessage k len s = .next (s.withRsp (Response.got (messageLength body.length) r))) ∧
    (len.toNat ≤ s.cap.val → (∀ body r, WireMessage k body r → ¬ MessageHeld s.mem len.toNat body) →
      getMessage k len s = .next (s.withRsp Response.parseFailed)) := by
  refine ⟨fun h => ?_, fun h body r hw hm => ?_, fun h hn => ?_⟩
  · rw [getMessage, if_pos h]; rfl
  · rw [getMessage, if_neg (by omega), parseMessage_eq_some.mpr ⟨body, hw, hm, rfl⟩]; rfl
  · rw [getMessage, if_neg (by omega)]
    split
    · next r c hp =>
      obtain ⟨body, hw, hm, _⟩ := parseMessage_eq_some.mp hp
      exact absurd hm (hn body r hw)
    · rfl

/-- If a get answers a next state, it is one of the three R157 gives. -/
theorem getMessage_next {k : Kind} {len : Word} {s t : State} (ht : getMessage k len s = .next t) :
    (s.cap.val < len.toNat ∧ t = errorState s .capacityError) ∨
    (len.toNat ≤ s.cap.val ∧ t = s.withRsp Response.parseFailed ∧ parseMessage k len.toNat s.mem = none) ∨
    (len.toNat ≤ s.cap.val ∧ ∃ body r, WireMessage k body r ∧ MessageHeld s.mem len.toNat body ∧
      t = s.withRsp (Response.got (messageLength body.length) r)) := by
  unfold getMessage at ht
  split at ht
  · next h => exact .inl ⟨h, raise_eq_next.mp ht⟩
  · next h =>
    split at ht
    · next r c hp =>
      obtain ⟨body, hw, hm, rfl⟩ := parseMessage_eq_some.mp hp
      exact .inr (.inr ⟨by omega, body, r, hw, hm, respond_eq_next.mp ht⟩)
    · next hp => exact .inr (.inl ⟨by omega, respond_eq_next.mp ht, hp⟩)

/-! ## The generic classify -/

theorem isKind_outcome (k : Kind) (len : Word) (s : State) : IsOutcome k.subId len s (isKind k len s) := by
  refine ⟨fun h => ?_, fun h => ?_⟩
  · rw [isKind, if_pos h]; rfl
  · rw [isKind, if_neg (by omega)]
    have : headerMatches k len.toNat s.mem.read =
        decide (8 ≤ len.toNat ∧ s.mem.read 3 = 0xF0 ∧ s.mem.read 2 = 0x7E ∧ s.mem.read 0 = 0x0D
          ∧ s.mem.read 7 = k.subId) := by
      rw [Bool.eq_iff_iff, headerMatches_iff, decide_eq_true_iff]
    rw [this]; rfl

theorem isKind_next {k : Kind} {len : Word} {s t : State} (ht : isKind k len s = .next t) :
    (s.cap.val < len.toNat ∧ t = errorState s .capacityError) ∨
    (len.toNat ≤ s.cap.val ∧ t = s.withRsp (Response.flagged (headerMatches k len.toNat s.mem.read))) := by
  unfold isKind at ht
  split at ht
  · next h => exact .inl ⟨h, raise_eq_next.mp ht⟩
  · next h => exact .inr ⟨by omega, respond_eq_next.mp ht⟩

/-! ## How the instructions reach them -/

theorem exec_isOf (len : Word) (k : Kind) (s : State) : exec (isOf len k) s = isKind k len s := by
  cases k <;> rfl

theorem exec_getOf (len : Word) (k : Kind) (s : State) : exec (getOf len k) s = getMessage k len s := by
  cases k <;> rfl

theorem exec_putOf (len : Word) (a : Args) (k : Kind) (s : State) :
    exec (putOf len a k) s =
      putMessage k len a.header (destinationOperand a k) ((payloadOperands a k).map Prod.snd) s := by
  cases k <;> rfl

/-- Every instruction is an `is_`, a `get_`, a `put_` of some kind, or one of the five MUID operations (R91, R92). -/
theorem instr_shape (i : Instr) :
    (∃ len k, i = isOf len k) ∨ (∃ len k, i = getOf len k) ∨ (∃ len a k, i = putOf len a k) ∨
    i = .generateMuid ∨ (∃ m, i = .putMuid m) ∨ i = .getMuid ∨ (∃ p m, i = .putMuidWithPosition p m) ∨
    (∃ p, i = .getMuidWithPosition p) := by
  cases hi : i with
  | isDiscovery len => exact .inl ⟨len, .discovery, rfl⟩
  | isDiscoveryReply len => exact .inl ⟨len, .discoveryReply, rfl⟩
  | isInvalidateMuid len => exact .inl ⟨len, .invalidateMuid, rfl⟩
  | isAck len => exact .inl ⟨len, .ack, rfl⟩
  | isNak len => exact .inl ⟨len, .nak, rfl⟩
  | isInitiateProtocolNegotiation len => exact .inl ⟨len, .initiateProtocolNegotiation, rfl⟩
  | isInitiateProtocolNegotiationReply len => exact .inl ⟨len, .initiateProtocolNegotiationReply, rfl⟩
  | isSetProtocolType len => exact .inl ⟨len, .setProtocolType, rfl⟩
  | isConfirmProtocolType len => exact .inl ⟨len, .confirmProtocolType, rfl⟩
  | isConfirmProtocolTypeReply len => exact .inl ⟨len, .confirmProtocolTypeReply, rfl⟩
  | isConfirmProtocolTypeEstablished len => exact .inl ⟨len, .confirmProtocolTypeEstablished, rfl⟩
  | isProfile len => exact .inl ⟨len, .profile, rfl⟩
  | isProfileReply len => exact .inl ⟨len, .profileReply, rfl⟩
  | isProfileEnabledReport len => exact .inl ⟨len, .profileEnabledReport, rfl⟩
  | isProfileDisabledReport len => exact .inl ⟨len, .profileDisabledReport, rfl⟩
  | isProfileAdded len => exact .inl ⟨len, .profileAdded, rfl⟩
  | isProfileRemoved len => exact .inl ⟨len, .profileRemoved, rfl⟩
  | isProfileSpecificData len => exact .inl ⟨len, .profileSpecificData, rfl⟩
  | isPropertyExchangeCapabilities len => exact .inl ⟨len, .propertyExchangeCapabilities, rfl⟩
  | isPropertyExchangeCapabilitiesReply len => exact .inl ⟨len, .propertyExchangeCapabilitiesReply, rfl⟩
  | isGetPropertyData len => exact .inl ⟨len, .getPropertyData, rfl⟩
  | isGetPropertyDataReply len => exact .inl ⟨len, .getPropertyDataReply, rfl⟩
  | isSetPropertyData len => exact .inl ⟨len, .setPropertyData, rfl⟩
  | isSetPropertyDataReply len => exact .inl ⟨len, .setPropertyDataReply, rfl⟩
  | isSubscription len => exact .inl ⟨len, .subscription, rfl⟩
  | isSubscriptionReply len => exact .inl ⟨len, .subscriptionReply, rfl⟩
  | isProcessCapabilities len => exact .inl ⟨len, .processCapabilities, rfl⟩
  | isProcessCapabilitiesReply len => exact .inl ⟨len, .processCapabilitiesReply, rfl⟩
  | isMessageReport len => exact .inl ⟨len, .messageReport, rfl⟩
  | isMessageReportReply len => exact .inl ⟨len, .messageReportReply, rfl⟩
  | isEndOfMessageReport len => exact .inl ⟨len, .endOfMessageReport, rfl⟩
  | getDiscovery len => exact .inr (.inl ⟨len, .discovery, rfl⟩)
  | getDiscoveryReply len => exact .inr (.inl ⟨len, .discoveryReply, rfl⟩)
  | getInvalidateMuid len => exact .inr (.inl ⟨len, .invalidateMuid, rfl⟩)
  | getAck len => exact .inr (.inl ⟨len, .ack, rfl⟩)
  | getNak len => exact .inr (.inl ⟨len, .nak, rfl⟩)
  | getInitiateProtocolNegotiation len => exact .inr (.inl ⟨len, .initiateProtocolNegotiation, rfl⟩)
  | getInitiateProtocolNegotiationReply len => exact .inr (.inl ⟨len, .initiateProtocolNegotiationReply, rfl⟩)
  | getSetProtocolType len => exact .inr (.inl ⟨len, .setProtocolType, rfl⟩)
  | getConfirmProtocolType len => exact .inr (.inl ⟨len, .confirmProtocolType, rfl⟩)
  | getConfirmProtocolTypeReply len => exact .inr (.inl ⟨len, .confirmProtocolTypeReply, rfl⟩)
  | getConfirmProtocolTypeEstablished len => exact .inr (.inl ⟨len, .confirmProtocolTypeEstablished, rfl⟩)
  | getProfile len => exact .inr (.inl ⟨len, .profile, rfl⟩)
  | getProfileReply len => exact .inr (.inl ⟨len, .profileReply, rfl⟩)
  | getProfileEnabledReport len => exact .inr (.inl ⟨len, .profileEnabledReport, rfl⟩)
  | getProfileDisabledReport len => exact .inr (.inl ⟨len, .profileDisabledReport, rfl⟩)
  | getProfileAdded len => exact .inr (.inl ⟨len, .profileAdded, rfl⟩)
  | getProfileRemoved len => exact .inr (.inl ⟨len, .profileRemoved, rfl⟩)
  | getProfileSpecificData len => exact .inr (.inl ⟨len, .profileSpecificData, rfl⟩)
  | getPropertyExchangeCapabilities len => exact .inr (.inl ⟨len, .propertyExchangeCapabilities, rfl⟩)
  | getPropertyExchangeCapabilitiesReply len => exact .inr (.inl ⟨len, .propertyExchangeCapabilitiesReply, rfl⟩)
  | getGetPropertyData len => exact .inr (.inl ⟨len, .getPropertyData, rfl⟩)
  | getGetPropertyDataReply len => exact .inr (.inl ⟨len, .getPropertyDataReply, rfl⟩)
  | getSetPropertyData len => exact .inr (.inl ⟨len, .setPropertyData, rfl⟩)
  | getSetPropertyDataReply len => exact .inr (.inl ⟨len, .setPropertyDataReply, rfl⟩)
  | getSubscription len => exact .inr (.inl ⟨len, .subscription, rfl⟩)
  | getSubscriptionReply len => exact .inr (.inl ⟨len, .subscriptionReply, rfl⟩)
  | getProcessCapabilities len => exact .inr (.inl ⟨len, .processCapabilities, rfl⟩)
  | getProcessCapabilitiesReply len => exact .inr (.inl ⟨len, .processCapabilitiesReply, rfl⟩)
  | getMessageReport len => exact .inr (.inl ⟨len, .messageReport, rfl⟩)
  | getMessageReportReply len => exact .inr (.inl ⟨len, .messageReportReply, rfl⟩)
  | getEndOfMessageReport len => exact .inr (.inl ⟨len, .endOfMessageReport, rfl⟩)
  | putDiscovery len => exact .inr (.inr (.inl ⟨len, (encode i).args, .discovery, by rw [hi]; rfl⟩))
  | putDiscoveryReply len => exact .inr (.inr (.inl ⟨len, (encode i).args, .discoveryReply, by rw [hi]; rfl⟩))
  | putInvalidateMuid len => exact .inr (.inr (.inl ⟨len, (encode i).args, .invalidateMuid, by rw [hi]; rfl⟩))
  | putAck len => exact .inr (.inr (.inl ⟨len, (encode i).args, .ack, by rw [hi]; rfl⟩))
  | putNak len => exact .inr (.inr (.inl ⟨len, (encode i).args, .nak, by rw [hi]; rfl⟩))
  | putInitiateProtocolNegotiation len => exact .inr (.inr (.inl ⟨len, (encode i).args, .initiateProtocolNegotiation, by rw [hi]; rfl⟩))
  | putInitiateProtocolNegotiationReply len => exact .inr (.inr (.inl ⟨len, (encode i).args, .initiateProtocolNegotiationReply, by rw [hi]; rfl⟩))
  | putSetProtocolType len => exact .inr (.inr (.inl ⟨len, (encode i).args, .setProtocolType, by rw [hi]; rfl⟩))
  | putConfirmProtocolType len => exact .inr (.inr (.inl ⟨len, (encode i).args, .confirmProtocolType, by rw [hi]; rfl⟩))
  | putConfirmProtocolTypeReply len => exact .inr (.inr (.inl ⟨len, (encode i).args, .confirmProtocolTypeReply, by rw [hi]; rfl⟩))
  | putConfirmProtocolTypeEstablished len => exact .inr (.inr (.inl ⟨len, (encode i).args, .confirmProtocolTypeEstablished, by rw [hi]; rfl⟩))
  | putProfile len => exact .inr (.inr (.inl ⟨len, (encode i).args, .profile, by rw [hi]; rfl⟩))
  | putProfileReply len => exact .inr (.inr (.inl ⟨len, (encode i).args, .profileReply, by rw [hi]; rfl⟩))
  | putProfileEnabledReport len => exact .inr (.inr (.inl ⟨len, (encode i).args, .profileEnabledReport, by rw [hi]; rfl⟩))
  | putProfileDisabledReport len => exact .inr (.inr (.inl ⟨len, (encode i).args, .profileDisabledReport, by rw [hi]; rfl⟩))
  | putProfileAdded len => exact .inr (.inr (.inl ⟨len, (encode i).args, .profileAdded, by rw [hi]; rfl⟩))
  | putProfileRemoved len => exact .inr (.inr (.inl ⟨len, (encode i).args, .profileRemoved, by rw [hi]; rfl⟩))
  | putProfileSpecificData len => exact .inr (.inr (.inl ⟨len, (encode i).args, .profileSpecificData, by rw [hi]; rfl⟩))
  | putPropertyExchangeCapabilities len => exact .inr (.inr (.inl ⟨len, (encode i).args, .propertyExchangeCapabilities, by rw [hi]; rfl⟩))
  | putPropertyExchangeCapabilitiesReply len => exact .inr (.inr (.inl ⟨len, (encode i).args, .propertyExchangeCapabilitiesReply, by rw [hi]; rfl⟩))
  | putGetPropertyData len => exact .inr (.inr (.inl ⟨len, (encode i).args, .getPropertyData, by rw [hi]; rfl⟩))
  | putGetPropertyDataReply len => exact .inr (.inr (.inl ⟨len, (encode i).args, .getPropertyDataReply, by rw [hi]; rfl⟩))
  | putSetPropertyData len => exact .inr (.inr (.inl ⟨len, (encode i).args, .setPropertyData, by rw [hi]; rfl⟩))
  | putSetPropertyDataReply len => exact .inr (.inr (.inl ⟨len, (encode i).args, .setPropertyDataReply, by rw [hi]; rfl⟩))
  | putSubscription len => exact .inr (.inr (.inl ⟨len, (encode i).args, .subscription, by rw [hi]; rfl⟩))
  | putSubscriptionReply len => exact .inr (.inr (.inl ⟨len, (encode i).args, .subscriptionReply, by rw [hi]; rfl⟩))
  | putProcessCapabilities len => exact .inr (.inr (.inl ⟨len, (encode i).args, .processCapabilities, by rw [hi]; rfl⟩))
  | putProcessCapabilitiesReply len => exact .inr (.inr (.inl ⟨len, (encode i).args, .processCapabilitiesReply, by rw [hi]; rfl⟩))
  | putMessageReport len => exact .inr (.inr (.inl ⟨len, (encode i).args, .messageReport, by rw [hi]; rfl⟩))
  | putMessageReportReply len => exact .inr (.inr (.inl ⟨len, (encode i).args, .messageReportReply, by rw [hi]; rfl⟩))
  | putEndOfMessageReport len => exact .inr (.inr (.inl ⟨len, (encode i).args, .endOfMessageReport, by rw [hi]; rfl⟩))
  | generateMuid => exact .inr (.inr (.inr (.inl rfl)))
  | putMuid => exact .inr (.inr (.inr (.inr (.inl ⟨_, rfl⟩))))
  | getMuid => exact .inr (.inr (.inr (.inr (.inr (.inl rfl)))))
  | putMuidWithPosition => exact .inr (.inr (.inr (.inr (.inr (.inr (.inl ⟨_, _, rfl⟩))))))
  | getMuidWithPosition => exact .inr (.inr (.inr (.inr (.inr (.inr (.inr ⟨_, rfl⟩))))))

end Sys2Proof.Machine
end

