-- ==== Sys2Proof/Laws/Decode.lean ====
section
/-! SUPPORT. The request code (R90 to R93, R96): what its fields are as numbers, what they are of a code put together
from a class and a selector, and which kind owns a selector. -/

namespace Sys2Proof.Machine

theorem opRsv_toNat (op : Half) : (opRsv op).toNat = op.toNat / 1024 := by
  have := op.isLt
  simp [opRsv, Nat.shiftRight_eq_div_pow]
  omega

theorem opCls_toNat (op : Half) : (opCls op).toNat = op.toNat / 256 % 4 := by
  simp [opCls, Nat.shiftRight_eq_div_pow]

theorem opSel_toNat (op : Half) : (opSel op).toNat = op.toNat % 256 := by
  simp [opSel]

theorem opRsv_opCode (c : OpClass) (b : Byte) : opRsv (opCode c b) = 0 := by
  apply BitVec.eq_of_getLsbD_eq
  intro i hi
  cases c <;> (simp [opRsv, opCode, OpClass.code]; try interval_cases i <;> simp)

theorem ofCode_opCls_opCode (c : OpClass) (b : Byte) : OpClass.ofCode (opCls (opCode c b)) = c := by
  have : opCls (opCode c b) = c.code := by
    apply BitVec.eq_of_getLsbD_eq
    intro i hi
    cases c <;> (interval_cases i <;> simp [opCls, opCode, OpClass.code])
  rw [this]
  cases c <;> rfl

theorem opSel_opCode (c : OpClass) (b : Byte) : opSel (opCode c b) = b := by
  apply BitVec.eq_of_getLsbD_eq
  intro i hi
  cases c <;> (interval_cases i <;> simp [opSel, opCode, OpClass.code])

theorem ofSubId_subId (k : Kind) : Kind.ofSubId k.subId = some k := by cases k <;> rfl

theorem subId_of_ofSubId {b : Byte} {k : Kind} (h : Kind.ofSubId b = some k) : k.subId = b := by
  simpa using List.find?_some h

theorem mem_kindAll (k : Kind) : k ∈ Kind.all := by cases k <;> decide

theorem subId_inj {j k : Kind} (h : j.subId = k.subId) : j = k := by
  have := ofSubId_subId j
  rw [h, ofSubId_subId] at this
  exact (Option.some.inj this).symm

theorem mem_subIdValues {b : Byte} : b ∈ subIdValues ↔ ∃ k, Kind.ofSubId b = some k := by
  rw [show subIdValues = Kind.all.map Kind.subId from rfl, List.mem_map]
  constructor
  · rintro ⟨k, _, rfl⟩
    exact ⟨k, ofSubId_subId k⟩
  · rintro ⟨k, h⟩
    exact ⟨k, mem_kindAll k, subId_of_ofSubId h⟩

theorem encode_isOf (len : Word) (k : Kind) : encode (isOf len k) = isRequest k len := by cases k <;> rfl

theorem encode_getOf (len : Word) (k : Kind) : encode (getOf len k) = getRequest k len := by cases k <;> rfl

theorem encode_putOf_op (len : Word) (a : Args) (k : Kind) :
    (encode (putOf len a k)).op = opCode .put k.subId := by cases k <;> rfl

/-- The operands of a put, taken again from the ports of its request. -/
theorem putOf_encode (len : Word) (a : Args) (k : Kind) :
    putOf (encode (putOf len a k)).len (encode (putOf len a k)).args k = putOf len a k := by cases k <;> rfl

end Sys2Proof.Machine
end

