-- ==== Sys2Proof/Laws/Muid.lean ====
section
/-! SUPPORT. What each of the five MUID operations can do, said once (R130 to R134): one lemma per operation, "if it
answers a next state, then it is one of these". -/

namespace Sys2Proof.Machine

theorem muidOutside_iff {s : State} {pos : Word} :
    muidOutside s.cap.val pos.toNat = true ↔ PositionOutside s pos := by
  simp [muidOutside, PositionOutside]

theorem not_muidInRange {m : Word} (h : (!muidInRange m) = true) : 2 ^ 28 ≤ m.toNat := by
  rw [Bool.not_eq_true', ← Bool.not_eq_true, muidInRange_iff] at h
  omega

theorem muidInRange_of {m : Word} (h : ¬ (!muidInRange m) = true) : m.toNat < 2 ^ 28 := by
  rw [Bool.not_eq_true', ← Bool.not_eq_true, not_not, muidInRange_iff] at h
  exact h

theorem generateMuid_next {s t : State} (ht : exec .generateMuid s = .next t) :
    t = s.drawn.withRsp (Response.muidIs ((Config.draw s.draws).setWidth 32)) :=
  respond_eq_next.mp ht

theorem putMuid_next {m : Word} {s t : State} (ht : exec (.putMuid m) s = .next t) :
    (2 ^ 28 ≤ m.toNat ∧ t = errorState s .overflowError) ∨
    (m.toNat < 2 ^ 28 ∧
      t = (s.withMem (writeStream s.mem 0 (muidWire m))).withRsp (Response.ofStatus .ok)) := by
  simp only [exec, execPutMuid] at ht
  split at ht
  · next h => exact .inl ⟨not_muidInRange h, raise_eq_next.mp ht⟩
  · next h => exact .inr ⟨muidInRange_of h, respond_eq_next.mp ht⟩

theorem getMuid_next {s t : State} (ht : exec .getMuid s = .next t) :
    t = s.withRsp (Response.muidIs (muidFrom (s.mem.read 3) (s.mem.read 2) (s.mem.read 1) (s.mem.read 0))) :=
  respond_eq_next.mp ht

theorem putMuidWithPosition_next {p m : Word} {s t : State}
    (ht : exec (.putMuidWithPosition p m) s = .next t) :
    (2 ^ 28 ≤ m.toNat ∧ t = errorState s .overflowError) ∨
    (m.toNat < 2 ^ 28 ∧ PositionOutside s p ∧ t = errorState s .capacityError) ∨
    (m.toNat < 2 ^ 28 ∧ ¬ PositionOutside s p ∧
      t = (s.withMem (writeStream s.mem p.toNat (muidWire m))).withRsp (Response.ofStatus .ok)) := by
  simp only [exec, execPutMuidWithPosition] at ht
  split at ht
  · next h => exact .inl ⟨not_muidInRange h, raise_eq_next.mp ht⟩
  · next h =>
    split at ht
    · next ho => exact .inr (.inl ⟨muidInRange_of h, muidOutside_iff.mp ho, raise_eq_next.mp ht⟩)
    · next ho =>
      rw [writeCursor_cursorAt] at ht
      exact .inr (.inr ⟨muidInRange_of h, fun hp => ho (muidOutside_iff.mpr hp), respond_eq_next.mp ht⟩)

theorem getMuidWithPosition_next {p : Word} {s t : State} (ht : exec (.getMuidWithPosition p) s = .next t) :
    (PositionOutside s p ∧ t = errorState s .capacityError) ∨
    (¬ PositionOutside s p ∧
      t = s.withRsp (Response.muidIs (muidFrom (s.mem.read (addrOf p.toNat)) (s.mem.read (addrOf (p.toNat + 1)))
        (s.mem.read (addrOf (p.toNat + 2))) (s.mem.read (addrOf (p.toNat + 3)))))) := by
  simp only [exec, execGetMuidWithPosition] at ht
  split at ht
  · next ho => exact .inl ⟨muidOutside_iff.mp ho, raise_eq_next.mp ht⟩
  · next ho =>
    rw [readMuid_cursorAt] at ht
    exact .inr ⟨fun hp => ho (muidOutside_iff.mpr hp), respond_eq_next.mp ht⟩

/-- A positional MUID inside the buffer: the four addresses are below the capacity. -/
theorem position_inside {s : State} {p : Word} (h : ¬ PositionOutside s p) (i : Nat) (hi : i < 4) :
    addrOf (p.toNat + i) < s.cap.val := by
  by_contra hc
  exact h ⟨i, hi, by omega⟩

end Sys2Proof.Machine
end

