-- ==== Sys2Proof/Laws/Instr.lean ====
section
/-! SUPPORT. The instructions as syntax: the classes are disjoint, a put's operands in range are its well-formedness,
the size of its message; and what each class's instruction leaves when it ends OK. -/

namespace Sys2Proof.Machine

/-! ## The classes are disjoint -/

theorem encode_isOf_op (len : Word) (k : Kind) : (encode (isOf len k)).op = opCode .is k.subId := by
  rw [encode_isOf]; rfl

theorem encode_getOf_op (len : Word) (k : Kind) : (encode (getOf len k)).op = opCode .get k.subId := by
  rw [encode_getOf]; rfl

theorem opCode_ne {c d : OpClass} {b b' : Byte} (h : c ≠ d) : opCode c b ≠ opCode d b' := by
  intro e
  have := congrArg (fun o => OpClass.ofCode (opCls o)) e
  simp only [ofCode_opCls_opCode] at this
  exact h this

theorem isOf_ne_getOf {l l' : Word} {k k' : Kind} : isOf l k ≠ getOf l' k' := fun e =>
  opCode_ne (by decide) (by rw [← encode_isOf_op l k, e, encode_getOf_op] : opCode .is k.subId = opCode .get k'.subId)

theorem isOf_ne_putOf {l l' : Word} {a : Args} {k k' : Kind} : isOf l k ≠ putOf l' a k' := fun e =>
  opCode_ne (by decide) (by rw [← encode_isOf_op l k, e, encode_putOf_op] : opCode .is k.subId = opCode .put k'.subId)

theorem getOf_ne_putOf {l l' : Word} {a : Args} {k k' : Kind} : getOf l k ≠ putOf l' a k' := fun e =>
  opCode_ne (by decide)
    (by rw [← encode_getOf_op l k, e, encode_putOf_op] : opCode .get k.subId = opCode .put k'.subId)

/-- The instruction is one of the five MUID operations. -/
abbrev Instr.IsMuid (i : Instr) : Prop := OpClass.ofCode (opCls (encode i).op) = .muid

theorem isMuid_generateMuid : Instr.IsMuid .generateMuid := ofCode_opCls_opCode .muid 0

theorem isMuid_putMuid (m : Word) : Instr.IsMuid (.putMuid m) := ofCode_opCls_opCode .muid 1

theorem isMuid_getMuid : Instr.IsMuid .getMuid := ofCode_opCls_opCode .muid 2

theorem isMuid_putMuidWithPosition (p m : Word) : Instr.IsMuid (.putMuidWithPosition p m) :=
  ofCode_opCls_opCode .muid 3

theorem isMuid_getMuidWithPosition (p : Word) : Instr.IsMuid (.getMuidWithPosition p) :=
  ofCode_opCls_opCode .muid 4

theorem isOf_ne_muid {l : Word} {k : Kind} {i : Instr} (h : Instr.IsMuid i) : isOf l k ≠ i := by
  rintro rfl
  rw [Instr.IsMuid, encode_isOf_op, ofCode_opCls_opCode] at h
  cases h

theorem getOf_ne_muid {l : Word} {k : Kind} {i : Instr} (h : Instr.IsMuid i) : getOf l k ≠ i := by
  rintro rfl
  rw [Instr.IsMuid, encode_getOf_op, ofCode_opCls_opCode] at h
  cases h

theorem putOf_ne_muid {l : Word} {a : Args} {k : Kind} {i : Instr} (h : Instr.IsMuid i) : putOf l a k ≠ i := by
  rintro rfl
  rw [Instr.IsMuid, encode_putOf_op, ofCode_opCls_opCode] at h
  cases h

theorem isOf_inj {l l' : Word} {k k' : Kind} (h : isOf l k = isOf l' k') : l = l' ∧ k = k' := by
  have h1 := congrArg (fun i => (encode i).len) h
  have h2 := congrArg (fun i => opSel (encode i).op) h
  simp only [encode_isOf_op, opSel_opCode] at h2
  rw [encode_isOf, encode_isOf] at h1
  exact ⟨h1, subId_inj h2⟩

theorem getOf_inj {l l' : Word} {k k' : Kind} (h : getOf l k = getOf l' k') : l = l' ∧ k = k' := by
  have h1 := congrArg (fun i => (encode i).len) h
  have h2 := congrArg (fun i => opSel (encode i).op) h
  simp only [encode_getOf_op, opSel_opCode] at h2
  rw [encode_getOf, encode_getOf] at h1
  exact ⟨h1, subId_inj h2⟩

theorem encode_putOf_len (l : Word) (a : Args) (k : Kind) : (encode (putOf l a k)).len = l := by cases k <;> rfl

theorem putOf_inj {l l' : Word} {a a' : Args} {k k' : Kind} (h : putOf l a k = putOf l' a' k') :
    l = l' ∧ k = k' := by
  have h1 := congrArg (fun i => (encode i).len) h
  have h2 := congrArg (fun i => opSel (encode i).op) h
  simp only [encode_putOf_op, opSel_opCode] at h2
  simp only [encode_putOf_len] at h1
  exact ⟨h1, subId_inj h2⟩

/-! ## Operand ranges -/

theorem headerInRange_iff {a : Args} {k : Kind} : headerInRange a.header (destinationOperand a k) = true ↔
    a.source.toNat < 2 ^ 28 ∧ (broadcastKind k = false → a.destination.toNat < 2 ^ 28) := by
  unfold headerInRange destinationOperand
  rw [Bool.and_eq_true, muidInRange_iff]
  cases broadcastKind k
  · simp [muidInRange_iff, Args.header]
  · simp [Args.header]

theorem payloadInRange_iff {a : Args} {k : Kind} :
    ((payloadOperands a k).map Prod.snd).all fieldInRange = true ↔
      (∀ n m, (n, FieldValue.muid m) ∈ payloadOperands a k → m.toNat < 2 ^ 28) ∧
      (∀ n w rs, (n, FieldValue.records w rs) ∈ payloadOperands a k → rs.length < 2 ^ countBits w) := by
  rw [List.all_eq_true]
  constructor
  · intro h
    refine ⟨fun n m hm => ?_, fun n w rs hm => ?_⟩
    · exact muidInRange_iff.mp (h _ (List.mem_map.mpr ⟨_, hm, rfl⟩))
    · have := h _ (List.mem_map.mpr ⟨_, hm, rfl⟩)
      exact of_decide_eq_true this
  · rintro ⟨h1, h2⟩ v hv
    obtain ⟨⟨n, v⟩, hm, rfl⟩ := List.mem_map.mp hv
    cases v with
    | muid m => exact muidInRange_iff.mpr (h1 n m hm)
    | records w rs => exact decide_eq_true (h2 n w rs hm)
    | u8 _ => rfl
    | u16 _ => rfl
    | u32 _ => rfl
    | bytes _ => rfl
    | pattern _ => rfl

/-- The operand check of R154 step 1 passes exactly when R505 gives no cause. -/
theorem inRange_iff {a : Args} {k : Kind} :
    (headerInRange a.header (destinationOperand a k) = true ∧
      ((payloadOperands a k).map Prod.snd).all fieldInRange = true) ↔ ¬ PutOverflow k a := by
  rw [headerInRange_iff, payloadInRange_iff]
  unfold PutOverflow
  push Not
  tauto

theorem wellFormed_isOf (l : Word) (k : Kind) : (isOf l k).wellFormed = true := by cases k <;> rfl

theorem wellFormed_getOf (l : Word) (k : Kind) : (getOf l k).wellFormed = true := by cases k <;> rfl

theorem wellFormed_putOf (l : Word) (a : Args) (k : Kind) :
    (putOf l a k).wellFormed = true ↔ ¬ PutOverflow k a := by
  rw [← inRange_iff]
  cases k <;>
    simp [putOf, Instr.wellFormed, muidLegal, countFits, headerInRange, destinationOperand, broadcastKind,
      payloadOperands, fieldInRange, muidInRange, Args.header, countBits, and_assoc] <;>
    (intros; exact decide_eq_true_iff.symm)

/-! ## The message of a put -/

theorem recordsOf_flatten_length {n : Nat} (rs : List (Bytes n)) : (recordsOf rs).flatten.length = n * rs.length := by
  rw [flatten_length_of_forall fun r h => length_of_mem_recordsOf h, recordsOf_length]

theorem emitFields_cons (v : FieldValue) (vs : List FieldValue) :
    emitFields (v :: vs) = emitField v ++ emitFields vs := rfl

theorem emitFields_nil : emitFields [] = [] := rfl

theorem bodyOf_length (k : Kind) (a : Args) : (bodyOf k a).length = bodyLength k a := by
  cases k <;>
    simp [bodyOf, bodyLength, payloadOperands, emitFields_cons, emitFields_nil, emitField, emitHeader_length,
      be16_length, be32_length, countSize, recordsOf_flatten_length, -List.length_flatten] <;>
    omega

/-- What a put that ends OK did (R154). -/
theorem putOf_ok {l : Word} {a : Args} {k : Kind} {s t : State} (ht : exec (putOf l a k) s = .next t)
    (hs : t.rsp.status = some .ok) :
    l.toNat ≤ s.cap.val ∧ lengthOf k a ≤ l.toNat ∧ ¬ PutOverflow k a ∧
      t = (s.withMem (writeStream s.mem 0 (frameMessage (bodyOf k a)))).withRsp
        (Response.put (lengthOf k a)) := by
  rw [exec_putOf] at ht
  have hl : lengthOf k a = messageLength (14 + (emitFields ((payloadOperands a k).map Prod.snd)).length) := by
    simp [lengthOf, bodyOf, emitHeader_length]
  rcases putMessage_next ht with ⟨rfl, _⟩ | ⟨rfl, _⟩ | ⟨h1, h2, h3, h4, rfl⟩
  · simp [errorState] at hs
  · simp [errorState] at hs
  · rw [← hl] at h2 ⊢
    exact ⟨h1, h2, inRange_iff.mp ⟨h3, h4⟩, rfl⟩

/-- What a get that ends OK found (R157). -/
theorem getOf_ok {l : Word} {k : Kind} {s t : State} (ht : exec (getOf l k) s = .next t)
    (hs : t.rsp.status = some .ok) :
    l.toNat ≤ s.cap.val ∧ ∃ body r, WireMessage k body r ∧ MessageHeld s.mem l.toNat body ∧
      t = s.withRsp (Response.got (messageLength body.length) r) := by
  rw [exec_getOf] at ht
  rcases getMessage_next ht with ⟨_, rfl⟩ | ⟨_, rfl, _⟩ | ⟨h, b, r, hw, hm, rfl⟩
  · simp [errorState] at hs
  · simp [Response.parseFailed, Response.ofStatus] at hs
  · exact ⟨h, b, r, hw, hm, rfl⟩

theorem wireMessage_length {k : Kind} {body : List Byte} {r : Record} (h : WireMessage k body r) :
    14 ≤ body.length := by
  obtain ⟨w, bs, vs, _, rfl, _⟩ := h
  rw [List.length_append, wireHeader_length]
  omega

/-! ## The wire forms a put writes -/

theorem wireField_u8 (v : Byte) : WireField .u8 (emitField (.u8 v)) (.u8 v) := ⟨v, rfl, rfl⟩

theorem wireField_u16 (v : Half) : WireField .u16 (emitField (.u16 v)) (.u16 v) :=
  ⟨_, _, rfl, by rw [ofBe16_split]⟩

theorem wireField_u32 (v : Word) : WireField .u32 (emitField (.u32 v)) (.u32 v) :=
  ⟨_, _, _, _, rfl, by rw [ofBe32_split]⟩

theorem wireField_bytes {n : Nat} (v : Bytes n) :
    WireField (.bytes n) (emitField (.bytes v.toList)) (.bytes v.toList) := ⟨by simp [emitField], rfl⟩

theorem wireField_muid {m : Word} (h : m.toNat < 2 ^ 28) : WireField .muid (emitField (.muid m)) (.muid m) :=
  ⟨_, _, _, _, rfl, by rw [muidFrom_muidWire h]⟩

theorem wireField_pattern : WireField .pattern48 (emitField (.pattern true)) (.pattern true) := ⟨rfl, rfl⟩

theorem wireField_records {n : Nat} (w : CountWidth) (vs : List (Bytes n)) (h : vs.length < 2 ^ countBits w) :
    WireField (.list w n) (emitField (.records w (recordsOf vs))) (.records w (recordsOf vs)) :=
  ⟨_, fun _ hr => length_of_mem_recordsOf hr, by rwa [recordsOf_length], rfl, rfl⟩

theorem wireField_byteRecords (w : CountWidth) (bs : List Byte) (h : bs.length < 2 ^ countBits w) :
    WireField (.list w 1) (emitField (.records w (recordsOfBytes bs))) (.records w (recordsOfBytes bs)) :=
  ⟨_, fun _ hr => length_of_mem_recordsOfBytes hr, by rwa [recordsOfBytes_length], rfl, rfl⟩

end Sys2Proof.Machine
end

