-- ==== Sys2Proof/Laws/PerInstr.lean ====
section
/-! SUPPORT. The family `LegalCode`: the request code the encoder gives every instruction is one of the 98 legal
ones (R93). One lemma per constructor of Instr. -/

namespace Sys2Proof.Laws

open Sys2Proof.Machine

theorem opCode_message_legal (c : OpClass) (hc : c ≠ .muid) (k : Kind) : LegalCode (opCode c k.subId) := by
  unfold LegalCode
  revert hc
  cases c <;> cases k <;> decide

theorem opCode_muid_legal (sel : Byte) (h : sel.toNat ≤ 4) : LegalCode (opCode .muid sel) := by
  have hs : sel = BitVec.ofNat 8 sel.toNat := by simp
  generalize sel.toNat = n at h hs
  subst hs
  unfold LegalCode
  interval_cases n <;> decide

/-- The encoder's code of the instruction is legal. -/
def LegalCode.Statement (i : Instr) : Prop := Machine.LegalCode (encode i).op

theorem LegalCode.isDiscovery (len : Word) :
    LegalCode.Statement (.isDiscovery len) :=
  opCode_message_legal .is (by decide) .discovery

theorem LegalCode.isDiscoveryReply (len : Word) :
    LegalCode.Statement (.isDiscoveryReply len) :=
  opCode_message_legal .is (by decide) .discoveryReply

theorem LegalCode.isInvalidateMuid (len : Word) :
    LegalCode.Statement (.isInvalidateMuid len) :=
  opCode_message_legal .is (by decide) .invalidateMuid

theorem LegalCode.isAck (len : Word) :
    LegalCode.Statement (.isAck len) :=
  opCode_message_legal .is (by decide) .ack

theorem LegalCode.isNak (len : Word) :
    LegalCode.Statement (.isNak len) :=
  opCode_message_legal .is (by decide) .nak

theorem LegalCode.isInitiateProtocolNegotiation (len : Word) :
    LegalCode.Statement (.isInitiateProtocolNegotiation len) :=
  opCode_message_legal .is (by decide) .initiateProtocolNegotiation

theorem LegalCode.isInitiateProtocolNegotiationReply (len : Word) :
    LegalCode.Statement (.isInitiateProtocolNegotiationReply len) :=
  opCode_message_legal .is (by decide) .initiateProtocolNegotiationReply

theorem LegalCode.isSetProtocolType (len : Word) :
    LegalCode.Statement (.isSetProtocolType len) :=
  opCode_message_legal .is (by decide) .setProtocolType

theorem LegalCode.isConfirmProtocolType (len : Word) :
    LegalCode.Statement (.isConfirmProtocolType len) :=
  opCode_message_legal .is (by decide) .confirmProtocolType

theorem LegalCode.isConfirmProtocolTypeReply (len : Word) :
    LegalCode.Statement (.isConfirmProtocolTypeReply len) :=
  opCode_message_legal .is (by decide) .confirmProtocolTypeReply

theorem LegalCode.isConfirmProtocolTypeEstablished (len : Word) :
    LegalCode.Statement (.isConfirmProtocolTypeEstablished len) :=
  opCode_message_legal .is (by decide) .confirmProtocolTypeEstablished

theorem LegalCode.isProfile (len : Word) :
    LegalCode.Statement (.isProfile len) :=
  opCode_message_legal .is (by decide) .profile

theorem LegalCode.isProfileReply (len : Word) :
    LegalCode.Statement (.isProfileReply len) :=
  opCode_message_legal .is (by decide) .profileReply

theorem LegalCode.isProfileEnabledReport (len : Word) :
    LegalCode.Statement (.isProfileEnabledReport len) :=
  opCode_message_legal .is (by decide) .profileEnabledReport

theorem LegalCode.isProfileDisabledReport (len : Word) :
    LegalCode.Statement (.isProfileDisabledReport len) :=
  opCode_message_legal .is (by decide) .profileDisabledReport

theorem LegalCode.isProfileAdded (len : Word) :
    LegalCode.Statement (.isProfileAdded len) :=
  opCode_message_legal .is (by decide) .profileAdded

theorem LegalCode.isProfileRemoved (len : Word) :
    LegalCode.Statement (.isProfileRemoved len) :=
  opCode_message_legal .is (by decide) .profileRemoved

theorem LegalCode.isProfileSpecificData (len : Word) :
    LegalCode.Statement (.isProfileSpecificData len) :=
  opCode_message_legal .is (by decide) .profileSpecificData

theorem LegalCode.isPropertyExchangeCapabilities (len : Word) :
    LegalCode.Statement (.isPropertyExchangeCapabilities len) :=
  opCode_message_legal .is (by decide) .propertyExchangeCapabilities

theorem LegalCode.isPropertyExchangeCapabilitiesReply (len : Word) :
    LegalCode.Statement (.isPropertyExchangeCapabilitiesReply len) :=
  opCode_message_legal .is (by decide) .propertyExchangeCapabilitiesReply

theorem LegalCode.isGetPropertyData (len : Word) :
    LegalCode.Statement (.isGetPropertyData len) :=
  opCode_message_legal .is (by decide) .getPropertyData

theorem LegalCode.isGetPropertyDataReply (len : Word) :
    LegalCode.Statement (.isGetPropertyDataReply len) :=
  opCode_message_legal .is (by decide) .getPropertyDataReply

theorem LegalCode.isSetPropertyData (len : Word) :
    LegalCode.Statement (.isSetPropertyData len) :=
  opCode_message_legal .is (by decide) .setPropertyData

theorem LegalCode.isSetPropertyDataReply (len : Word) :
    LegalCode.Statement (.isSetPropertyDataReply len) :=
  opCode_message_legal .is (by decide) .setPropertyDataReply

theorem LegalCode.isSubscription (len : Word) :
    LegalCode.Statement (.isSubscription len) :=
  opCode_message_legal .is (by decide) .subscription

theorem LegalCode.isSubscriptionReply (len : Word) :
    LegalCode.Statement (.isSubscriptionReply len) :=
  opCode_message_legal .is (by decide) .subscriptionReply

theorem LegalCode.isProcessCapabilities (len : Word) :
    LegalCode.Statement (.isProcessCapabilities len) :=
  opCode_message_legal .is (by decide) .processCapabilities

theorem LegalCode.isProcessCapabilitiesReply (len : Word) :
    LegalCode.Statement (.isProcessCapabilitiesReply len) :=
  opCode_message_legal .is (by decide) .processCapabilitiesReply

theorem LegalCode.isMessageReport (len : Word) :
    LegalCode.Statement (.isMessageReport len) :=
  opCode_message_legal .is (by decide) .messageReport

theorem LegalCode.isMessageReportReply (len : Word) :
    LegalCode.Statement (.isMessageReportReply len) :=
  opCode_message_legal .is (by decide) .messageReportReply

theorem LegalCode.isEndOfMessageReport (len : Word) :
    LegalCode.Statement (.isEndOfMessageReport len) :=
  opCode_message_legal .is (by decide) .endOfMessageReport

theorem LegalCode.getDiscovery (len : Word) :
    LegalCode.Statement (.getDiscovery len) :=
  opCode_message_legal .get (by decide) .discovery

theorem LegalCode.getDiscoveryReply (len : Word) :
    LegalCode.Statement (.getDiscoveryReply len) :=
  opCode_message_legal .get (by decide) .discoveryReply

theorem LegalCode.getInvalidateMuid (len : Word) :
    LegalCode.Statement (.getInvalidateMuid len) :=
  opCode_message_legal .get (by decide) .invalidateMuid

theorem LegalCode.getAck (len : Word) :
    LegalCode.Statement (.getAck len) :=
  opCode_message_legal .get (by decide) .ack

theorem LegalCode.getNak (len : Word) :
    LegalCode.Statement (.getNak len) :=
  opCode_message_legal .get (by decide) .nak

theorem LegalCode.getInitiateProtocolNegotiation (len : Word) :
    LegalCode.Statement (.getInitiateProtocolNegotiation len) :=
  opCode_message_legal .get (by decide) .initiateProtocolNegotiation

theorem LegalCode.getInitiateProtocolNegotiationReply (len : Word) :
    LegalCode.Statement (.getInitiateProtocolNegotiationReply len) :=
  opCode_message_legal .get (by decide) .initiateProtocolNegotiationReply

theorem LegalCode.getSetProtocolType (len : Word) :
    LegalCode.Statement (.getSetProtocolType len) :=
  opCode_message_legal .get (by decide) .setProtocolType

theorem LegalCode.getConfirmProtocolType (len : Word) :
    LegalCode.Statement (.getConfirmProtocolType len) :=
  opCode_message_legal .get (by decide) .confirmProtocolType

theorem LegalCode.getConfirmProtocolTypeReply (len : Word) :
    LegalCode.Statement (.getConfirmProtocolTypeReply len) :=
  opCode_message_legal .get (by decide) .confirmProtocolTypeReply

theorem LegalCode.getConfirmProtocolTypeEstablished (len : Word) :
    LegalCode.Statement (.getConfirmProtocolTypeEstablished len) :=
  opCode_message_legal .get (by decide) .confirmProtocolTypeEstablished

theorem LegalCode.getProfile (len : Word) :
    LegalCode.Statement (.getProfile len) :=
  opCode_message_legal .get (by decide) .profile

theorem LegalCode.getProfileReply (len : Word) :
    LegalCode.Statement (.getProfileReply len) :=
  opCode_message_legal .get (by decide) .profileReply

theorem LegalCode.getProfileEnabledReport (len : Word) :
    LegalCode.Statement (.getProfileEnabledReport len) :=
  opCode_message_legal .get (by decide) .profileEnabledReport

theorem LegalCode.getProfileDisabledReport (len : Word) :
    LegalCode.Statement (.getProfileDisabledReport len) :=
  opCode_message_legal .get (by decide) .profileDisabledReport

theorem LegalCode.getProfileAdded (len : Word) :
    LegalCode.Statement (.getProfileAdded len) :=
  opCode_message_legal .get (by decide) .profileAdded

theorem LegalCode.getProfileRemoved (len : Word) :
    LegalCode.Statement (.getProfileRemoved len) :=
  opCode_message_legal .get (by decide) .profileRemoved

theorem LegalCode.getProfileSpecificData (len : Word) :
    LegalCode.Statement (.getProfileSpecificData len) :=
  opCode_message_legal .get (by decide) .profileSpecificData

theorem LegalCode.getPropertyExchangeCapabilities (len : Word) :
    LegalCode.Statement (.getPropertyExchangeCapabilities len) :=
  opCode_message_legal .get (by decide) .propertyExchangeCapabilities

theorem LegalCode.getPropertyExchangeCapabilitiesReply (len : Word) :
    LegalCode.Statement (.getPropertyExchangeCapabilitiesReply len) :=
  opCode_message_legal .get (by decide) .propertyExchangeCapabilitiesReply

theorem LegalCode.getGetPropertyData (len : Word) :
    LegalCode.Statement (.getGetPropertyData len) :=
  opCode_message_legal .get (by decide) .getPropertyData

theorem LegalCode.getGetPropertyDataReply (len : Word) :
    LegalCode.Statement (.getGetPropertyDataReply len) :=
  opCode_message_legal .get (by decide) .getPropertyDataReply

theorem LegalCode.getSetPropertyData (len : Word) :
    LegalCode.Statement (.getSetPropertyData len) :=
  opCode_message_legal .get (by decide) .setPropertyData

theorem LegalCode.getSetPropertyDataReply (len : Word) :
    LegalCode.Statement (.getSetPropertyDataReply len) :=
  opCode_message_legal .get (by decide) .setPropertyDataReply

theorem LegalCode.getSubscription (len : Word) :
    LegalCode.Statement (.getSubscription len) :=
  opCode_message_legal .get (by decide) .subscription

theorem LegalCode.getSubscriptionReply (len : Word) :
    LegalCode.Statement (.getSubscriptionReply len) :=
  opCode_message_legal .get (by decide) .subscriptionReply

theorem LegalCode.getProcessCapabilities (len : Word) :
    LegalCode.Statement (.getProcessCapabilities len) :=
  opCode_message_legal .get (by decide) .processCapabilities

theorem LegalCode.getProcessCapabilitiesReply (len : Word) :
    LegalCode.Statement (.getProcessCapabilitiesReply len) :=
  opCode_message_legal .get (by decide) .processCapabilitiesReply

theorem LegalCode.getMessageReport (len : Word) :
    LegalCode.Statement (.getMessageReport len) :=
  opCode_message_legal .get (by decide) .messageReport

theorem LegalCode.getMessageReportReply (len : Word) :
    LegalCode.Statement (.getMessageReportReply len) :=
  opCode_message_legal .get (by decide) .messageReportReply

theorem LegalCode.getEndOfMessageReport (len : Word) :
    LegalCode.Statement (.getEndOfMessageReport len) :=
  opCode_message_legal .get (by decide) .endOfMessageReport

theorem LegalCode.putDiscovery (len : Word) (hdr : Header) (manufacturerId : Bytes 3) (deviceFamily
    deviceFamilyModelNumber : Half) (softwareRevisionLevel : Bytes 4) (capability : Byte) (maxSysexMessageSize :
    Word) :
    LegalCode.Statement (.putDiscovery len hdr manufacturerId deviceFamily deviceFamilyModelNumber
      softwareRevisionLevel capability maxSysexMessageSize) :=
  opCode_message_legal .put (by decide) .discovery

theorem LegalCode.putDiscoveryReply (len : Word) (hdr : Header) (destination : Word) (manufacturerId : Bytes 3)
    (deviceFamily deviceFamilyModelNumber : Half) (softwareRevisionLevel : Bytes 4) (capability : Byte)
    (maxSysexMessageSize : Word) :
    LegalCode.Statement (.putDiscoveryReply len hdr destination manufacturerId deviceFamily
      deviceFamilyModelNumber softwareRevisionLevel capability maxSysexMessageSize) :=
  opCode_message_legal .put (by decide) .discoveryReply

theorem LegalCode.putInvalidateMuid (len : Word) (hdr : Header) (targetMuid : Word) :
    LegalCode.Statement (.putInvalidateMuid len hdr targetMuid) :=
  opCode_message_legal .put (by decide) .invalidateMuid

theorem LegalCode.putAck (len : Word) (hdr : Header) (destination : Word) (origTransaction statusCode statusData
    : Byte) (details : Bytes 5) (message : List Byte) :
    LegalCode.Statement (.putAck len hdr destination origTransaction statusCode statusData details message)
      :=
  opCode_message_legal .put (by decide) .ack

theorem LegalCode.putNak (len : Word) (hdr : Header) (destination : Word) :
    LegalCode.Statement (.putNak len hdr destination) :=
  opCode_message_legal .put (by decide) .nak

theorem LegalCode.putInitiateProtocolNegotiation (len : Word) (hdr : Header) (destination : Word)
    (authorityLevel : Byte) (supportedProtocols : List (Bytes 5)) :
    LegalCode.Statement (.putInitiateProtocolNegotiation len hdr destination authorityLevel
      supportedProtocols) :=
  opCode_message_legal .put (by decide) .initiateProtocolNegotiation

theorem LegalCode.putInitiateProtocolNegotiationReply (len : Word) (hdr : Header) (destination : Word)
    (authorityLevel : Byte) (supportedProtocols : List (Bytes 5)) :
    LegalCode.Statement (.putInitiateProtocolNegotiationReply len hdr destination authorityLevel
      supportedProtocols) :=
  opCode_message_legal .put (by decide) .initiateProtocolNegotiationReply

theorem LegalCode.putSetProtocolType (len : Word) (hdr : Header) (destination : Word) (authorityLevel : Byte)
    (protocolType : Bytes 5) :
    LegalCode.Statement (.putSetProtocolType len hdr destination authorityLevel protocolType) :=
  opCode_message_legal .put (by decide) .setProtocolType

theorem LegalCode.putConfirmProtocolType (len : Word) (hdr : Header) (destination : Word) (authorityLevel :
    Byte) :
    LegalCode.Statement (.putConfirmProtocolType len hdr destination authorityLevel) :=
  opCode_message_legal .put (by decide) .confirmProtocolType

theorem LegalCode.putConfirmProtocolTypeReply (len : Word) (hdr : Header) (destination : Word) (authorityLevel :
    Byte) :
    LegalCode.Statement (.putConfirmProtocolTypeReply len hdr destination authorityLevel) :=
  opCode_message_legal .put (by decide) .confirmProtocolTypeReply

theorem LegalCode.putConfirmProtocolTypeEstablished (len : Word) (hdr : Header) (destination : Word)
    (authorityLevel : Byte) :
    LegalCode.Statement (.putConfirmProtocolTypeEstablished len hdr destination authorityLevel) :=
  opCode_message_legal .put (by decide) .confirmProtocolTypeEstablished

theorem LegalCode.putProfile (len : Word) (hdr : Header) (destination : Word) :
    LegalCode.Statement (.putProfile len hdr destination) :=
  opCode_message_legal .put (by decide) .profile

theorem LegalCode.putProfileReply (len : Word) (hdr : Header) (destination : Word) (enabledProfiles
    disabledProfiles : List (Bytes 5)) :
    LegalCode.Statement (.putProfileReply len hdr destination enabledProfiles disabledProfiles) :=
  opCode_message_legal .put (by decide) .profileReply

theorem LegalCode.putProfileEnabledReport (len : Word) (hdr : Header) (profile : Bytes 5) (channelCount : Half)
    :
    LegalCode.Statement (.putProfileEnabledReport len hdr profile channelCount) :=
  opCode_message_legal .put (by decide) .profileEnabledReport

theorem LegalCode.putProfileDisabledReport (len : Word) (hdr : Header) (profile : Bytes 5) (channelCount : Half)
    :
    LegalCode.Statement (.putProfileDisabledReport len hdr profile channelCount) :=
  opCode_message_legal .put (by decide) .profileDisabledReport

theorem LegalCode.putProfileAdded (len : Word) (hdr : Header) (profile : Bytes 5) :
    LegalCode.Statement (.putProfileAdded len hdr profile) :=
  opCode_message_legal .put (by decide) .profileAdded

theorem LegalCode.putProfileRemoved (len : Word) (hdr : Header) (profile : Bytes 5) :
    LegalCode.Statement (.putProfileRemoved len hdr profile) :=
  opCode_message_legal .put (by decide) .profileRemoved

theorem LegalCode.putProfileSpecificData (len : Word) (hdr : Header) (destination : Word) (profileId : Bytes 5)
    (data : List Byte) :
    LegalCode.Statement (.putProfileSpecificData len hdr destination profileId data) :=
  opCode_message_legal .put (by decide) .profileSpecificData

theorem LegalCode.putPropertyExchangeCapabilities (len : Word) (hdr : Header) (destination : Word)
    (supportedCount major minor : Byte) :
    LegalCode.Statement (.putPropertyExchangeCapabilities len hdr destination supportedCount major minor) :=
  opCode_message_legal .put (by decide) .propertyExchangeCapabilities

theorem LegalCode.putPropertyExchangeCapabilitiesReply (len : Word) (hdr : Header) (destination : Word)
    (supportedCount major minor : Byte) :
    LegalCode.Statement (.putPropertyExchangeCapabilitiesReply len hdr destination supportedCount major
      minor) :=
  opCode_message_legal .put (by decide) .propertyExchangeCapabilitiesReply

theorem LegalCode.putGetPropertyData (len : Word) (hdr : Header) (destination : Word) (requestId : Byte)
    (headerData : List Byte) (chunkCount nthChunk : Half) (propertyData : List Byte) :
    LegalCode.Statement (.putGetPropertyData len hdr destination requestId headerData chunkCount nthChunk
      propertyData) :=
  opCode_message_legal .put (by decide) .getPropertyData

theorem LegalCode.putGetPropertyDataReply (len : Word) (hdr : Header) (destination : Word) (requestId : Byte)
    (headerData : List Byte) (chunkCount nthChunk : Half) (propertyData : List Byte) :
    LegalCode.Statement (.putGetPropertyDataReply len hdr destination requestId headerData chunkCount
      nthChunk propertyData) :=
  opCode_message_legal .put (by decide) .getPropertyDataReply

theorem LegalCode.putSetPropertyData (len : Word) (hdr : Header) (destination : Word) (requestId : Byte)
    (headerData : List Byte) (chunkCount nthChunk : Half) (propertyData : List Byte) :
    LegalCode.Statement (.putSetPropertyData len hdr destination requestId headerData chunkCount nthChunk
      propertyData) :=
  opCode_message_legal .put (by decide) .setPropertyData

theorem LegalCode.putSetPropertyDataReply (len : Word) (hdr : Header) (destination : Word) (requestId : Byte)
    (headerData : List Byte) (chunkCount nthChunk : Half) (propertyData : List Byte) :
    LegalCode.Statement (.putSetPropertyDataReply len hdr destination requestId headerData chunkCount
      nthChunk propertyData) :=
  opCode_message_legal .put (by decide) .setPropertyDataReply

theorem LegalCode.putSubscription (len : Word) (hdr : Header) (destination : Word) (requestId : Byte)
    (headerData : List Byte) (chunkCount nthChunk : Half) (propertyData : List Byte) :
    LegalCode.Statement (.putSubscription len hdr destination requestId headerData chunkCount nthChunk
      propertyData) :=
  opCode_message_legal .put (by decide) .subscription

theorem LegalCode.putSubscriptionReply (len : Word) (hdr : Header) (destination : Word) (requestId : Byte)
    (headerData : List Byte) (chunkCount nthChunk : Half) (propertyData : List Byte) :
    LegalCode.Statement (.putSubscriptionReply len hdr destination requestId headerData chunkCount nthChunk
      propertyData) :=
  opCode_message_legal .put (by decide) .subscriptionReply

theorem LegalCode.putProcessCapabilities (len : Word) (hdr : Header) (destination : Word) :
    LegalCode.Statement (.putProcessCapabilities len hdr destination) :=
  opCode_message_legal .put (by decide) .processCapabilities

theorem LegalCode.putProcessCapabilitiesReply (len : Word) (hdr : Header) (destination : Word)
    (supportedFeatures : Byte) :
    LegalCode.Statement (.putProcessCapabilitiesReply len hdr destination supportedFeatures) :=
  opCode_message_legal .put (by decide) .processCapabilitiesReply

theorem LegalCode.putMessageReport (len : Word) (hdr : Header) (destination : Word) (dataControl systemMessages
    otherMessages channelControllerMessages noteDataMessages : Byte) :
    LegalCode.Statement (.putMessageReport len hdr destination dataControl systemMessages otherMessages
      channelControllerMessages noteDataMessages) :=
  opCode_message_legal .put (by decide) .messageReport

theorem LegalCode.putMessageReportReply (len : Word) (hdr : Header) (destination : Word) (systemMessages
    otherMessages channelControllerMessages noteDataMessages : Byte) :
    LegalCode.Statement (.putMessageReportReply len hdr destination systemMessages otherMessages
      channelControllerMessages noteDataMessages) :=
  opCode_message_legal .put (by decide) .messageReportReply

theorem LegalCode.putEndOfMessageReport (len : Word) (hdr : Header) (destination : Word) :
    LegalCode.Statement (.putEndOfMessageReport len hdr destination) :=
  opCode_message_legal .put (by decide) .endOfMessageReport

theorem LegalCode.generateMuid :
    LegalCode.Statement (.generateMuid) :=
  opCode_muid_legal 0x00 (by decide)

theorem LegalCode.putMuid (muid : Word) :
    LegalCode.Statement (.putMuid muid) :=
  opCode_muid_legal 0x01 (by decide)

theorem LegalCode.getMuid :
    LegalCode.Statement (.getMuid) :=
  opCode_muid_legal 0x02 (by decide)

theorem LegalCode.putMuidWithPosition (pos muid : Word) :
    LegalCode.Statement (.putMuidWithPosition pos muid) :=
  opCode_muid_legal 0x03 (by decide)

theorem LegalCode.getMuidWithPosition (pos : Word) :
    LegalCode.Statement (.getMuidWithPosition pos) :=
  opCode_muid_legal 0x04 (by decide)

end Sys2Proof.Laws
end

