-- ==== Sys2Proof/Tests/Slice0.lean ====
section
/-! SUPPORT. Tests: the expected values are those of spec/95_test_vectors.md (E1 to E10, V1 to V10, P1 to P5) and
of the examples of spec/42_discovery.md to spec/46_process_inquiry.md; nothing here is copied from a run of the
model. After them, one witness theorem for each statement that has hypotheses. -/

namespace Sys2Proof.Tests

open Sys2Proof.Machine

/-! ## Helpers -/

/-- After reset with `BUF_CAP = 64`, the buffer holding these bytes from address 0 up and zeros above. -/
def bufferOf (bytes : List Byte) : State := State.resetWith Config.resetCap (Memory.writeFrom [] 0 bytes)

/-- The state a step leads to, if it leads to one. -/
def nextOf : Host.Outcome State Fault Refusal → Option State
  | .next t => some t
  | .fault _ => none
  | .refused _ => none

/-- The response a step leaves. -/
def rspOf (o : Host.Outcome State Fault Refusal) : Option Response := (nextOf o).map State.rsp

/-- The status a step leaves. -/
def statusOf (o : Host.Outcome State Fault Refusal) : Option Status := (nextOf o).bind fun t => t.rsp.status

/-- The flag a step leaves. -/
def flagOf (o : Host.Outcome State Fault Refusal) : Option Bool := (nextOf o).bind fun t => t.rsp.flag

/-- The MUID a step leaves in the response. -/
def muidResultOf (o : Host.Outcome State Fault Refusal) : Option Word := (nextOf o).bind fun t => t.rsp.muid

/-- The fault mark a step leaves. -/
def markOf (o : Host.Outcome State Fault Refusal) : Option Bool := (nextOf o).map State.faultMark

/-- The first `n` bytes of the buffer after a step. -/
def bytesAfter (n : Nat) (o : Host.Outcome State Fault Refusal) : Option (List Byte) :=
  (nextOf o).map fun t => (List.range n).map t.mem.read

/-- A put that ends with `OK`: its count and the first `n` bytes of the buffer. -/
def written (n : Nat) (o : Host.Outcome State Fault Refusal) : Option (Option Word × List Byte) :=
  (nextOf o).bind fun t =>
    if t.rsp.status = some .ok then some (t.rsp.count, (List.range n).map t.mem.read) else none

/-- A step that ends in a state has one. -/
theorem exists_of_statusOf {o : Host.Outcome State Fault Refusal} {st : Status} (h : statusOf o = some st) :
    ∃ t, o = .next t ∧ t.rsp.status = some st := by
  cases o with
  | next t => exact ⟨t, rfl, h⟩
  | fault f => cases h
  | refused r => cases h

/-- The response of a get that decodes a message (R157). -/
def gotOk (count : Word) (r : Record) : Option Response :=
  some { status := some .ok, count := some count, flag := none, muid := none, fields := some r }

/-- The response of a get that does not (R503). -/
def parseError : Option Response :=
  some { status := some .parseError, count := some 0, flag := none, muid := none, fields := none }

/-- `device_id=0x7F, version=0x01, source=0x12345`, the header of every example. -/
def exHeader : Header := { deviceId := 0x7F, version := 0x01, source := 0x12345 }

/-- The record of an example with a destination operand. -/
def exRecord (payload : List (FieldName × FieldValue)) : Record :=
  { deviceId := 0x7F, version := 0x01, source := 0x12345, destination := 0x0ABCDEF1, payload := payload }

/-- The record of an example of a broadcast kind. -/
def exRecordBc (payload : List (FieldName × FieldValue)) : Record :=
  { deviceId := 0x7F, version := 0x01, source := 0x12345, destination := 0x0FFFFFFF, payload := payload }

/-- The bytes of the `discovery` example (R201), addresses from 0 up. -/
def discoveryBytes : List Byte := [0x0D, 0x7F, 0x7E, 0xF0, 0x01, 0x00, 0x01, 0x70, 0x7F, 0x7F, 0x45, 0x23, 0x00,
  0x01, 0x7F, 0x7F, 0x00, 0x00, 0x01, 0x00, 0x00, 0x00, 0x01, 0x01, 0x00, 0x00, 0x0F, 0x00, 0xF7, 0x00, 0x00,
  0x02]

/-- The bytes of the `discovery_reply` example (R205), addresses from 0 up. -/
def discoveryReplyBytes : List Byte := [0x0D, 0x7F, 0x7E, 0xF0, 0x01, 0x00, 0x01, 0x71, 0x3C, 0x7A, 0x45, 0x23,
  0x00, 0x01, 0x71, 0x5E, 0x00, 0x00, 0x01, 0x00, 0x00, 0x00, 0x01, 0x01, 0x00, 0x00, 0x0F, 0x00, 0xF7, 0x00,
  0x00, 0x02]

/-- The bytes of the `invalidate_muid` example (R209), addresses from 0 up. -/
def invalidateMuidBytes : List Byte := [0x0D, 0x7F, 0x7E, 0xF0, 0x01, 0x00, 0x01, 0x7E, 0x7F, 0x7F, 0x45, 0x23,
  0x7F, 0x7F, 0x7F, 0x7F, 0xF7, 0x00, 0x7F, 0x7F]

/-- The bytes of the `ack` example (R213), addresses from 0 up. -/
def ackBytes : List Byte := [0x0D, 0x7F, 0x7E, 0xF0, 0x01, 0x00, 0x01, 0x7D, 0x3C, 0x7A, 0x45, 0x23, 0x00, 0x34,
  0x71, 0x5E, 0x00, 0x00, 0x00, 0x00, 0x02, 0x00, 0x00, 0x00, 0xF7, 0x00, 0x42, 0x41]

/-- The bytes of the `nak` example (R217), addresses from 0 up. -/
def nakBytes : List Byte := [0x0D, 0x7F, 0x7E, 0xF0, 0x01, 0x00, 0x01, 0x7F, 0x3C, 0x7A, 0x45, 0x23, 0xF7, 0x00,
  0x71, 0x5E]

/-- The bytes of the `initiate_protocol_negotiation` example (R251), addresses from 0 up. -/
def initiateProtocolNegotiationBytes : List Byte := [0x0D, 0x7F, 0x7E, 0xF0, 0x01, 0x00, 0x01, 0x10, 0x3C, 0x7A,
  0x45, 0x23, 0x02, 0x10, 0x71, 0x5E, 0x00, 0x00, 0x00, 0x01, 0x00, 0x00, 0x02, 0x00, 0xF7, 0x00, 0x00, 0x00]

/-- The bytes of the `initiate_protocol_negotiation_reply` example (R255), addresses from 0 up. -/
def initiateProtocolNegotiationReplyBytes : List Byte := [0x0D, 0x7F, 0x7E, 0xF0, 0x01, 0x00, 0x01, 0x11, 0x3C,
  0x7A, 0x45, 0x23, 0x01, 0x10, 0x71, 0x5E, 0x00, 0x00, 0x00, 0x02, 0xF7, 0x00, 0x00, 0x00]

/-- The bytes of the `set_protocol_type` example (R259), addresses from 0 up. -/
def setProtocolTypeBytes : List Byte := [0x0D, 0x7F, 0x7E, 0xF0, 0x01, 0x00, 0x01, 0x12, 0x3C, 0x7A, 0x45, 0x23,
  0x02, 0x10, 0x71, 0x5E, 0x00, 0x00, 0x00, 0x00, 0xF7, 0x00, 0x00, 0x00]

/-- The bytes of the `confirm_protocol_type` example (R272), addresses from 0 up. -/
def confirmProtocolTypeBytes : List Byte := [0x0D, 0x7F, 0x7E, 0xF0, 0x01, 0x00, 0x01, 0x13, 0x3C, 0x7A, 0x45,
  0x23, 0x00, 0x10, 0x71, 0x5E, 0x04, 0x03, 0x02, 0x01, 0x08, 0x07, 0x06, 0x05, 0x0C, 0x0B, 0x0A, 0x09, 0x10,
  0x0F, 0x0E, 0x0D, 0x14, 0x13, 0x12, 0x11, 0x18, 0x17, 0x16, 0x15, 0x1C, 0x1B, 0x1A, 0x19, 0x20, 0x1F, 0x1E,
  0x1D, 0x24, 0x23, 0x22, 0x21, 0x28, 0x27, 0x26, 0x25, 0x2C, 0x2B, 0x2A, 0x29, 0xF7, 0x2F, 0x2E, 0x2D]

/-- The bytes of the `confirm_protocol_type_reply` example (R276), addresses from 0 up. -/
def confirmProtocolTypeReplyBytes : List Byte := [0x0D, 0x7F, 0x7E, 0xF0, 0x01, 0x00, 0x01, 0x14, 0x3C, 0x7A,
  0x45, 0x23, 0x00, 0x10, 0x71, 0x5E, 0x04, 0x03, 0x02, 0x01, 0x08, 0x07, 0x06, 0x05, 0x0C, 0x0B, 0x0A, 0x09,
  0x10, 0x0F, 0x0E, 0x0D, 0x14, 0x13, 0x12, 0x11, 0x18, 0x17, 0x16, 0x15, 0x1C, 0x1B, 0x1A, 0x19, 0x20, 0x1F,
  0x1E, 0x1D, 0x24, 0x23, 0x22, 0x21, 0x28, 0x27, 0x26, 0x25, 0x2C, 0x2B, 0x2A, 0x29, 0xF7, 0x2F, 0x2E, 0x2D]

/-- The bytes of the `confirm_protocol_type_established` example (R280), addresses from 0 up. -/
def confirmProtocolTypeEstablishedBytes : List Byte := [0x0D, 0x7F, 0x7E, 0xF0, 0x01, 0x00, 0x01, 0x15, 0x3C,
  0x7A, 0x45, 0x23, 0xF7, 0x10, 0x71, 0x5E]

/-- The bytes of the `profile` example (R301), addresses from 0 up. -/
def profileBytes : List Byte := [0x0D, 0x7F, 0x7E, 0xF0, 0x01, 0x00, 0x01, 0x20, 0x3C, 0x7A, 0x45, 0x23, 0xF7,
  0x00, 0x71, 0x5E]

/-- The bytes of the `profile_reply` example (R305), addresses from 0 up. -/
def profileReplyBytes : List Byte := [0x0D, 0x7F, 0x7E, 0xF0, 0x01, 0x00, 0x01, 0x21, 0x3C, 0x7A, 0x45, 0x23,
  0x01, 0x00, 0x71, 0x5E, 0x01, 0x01, 0x00, 0x7E, 0xF7, 0x00, 0x00, 0x00]

/-- The bytes of the `profile_enabled_report` example (R309), addresses from 0 up. -/
def profileEnabledReportBytes : List Byte := [0x0D, 0x7F, 0x7E, 0xF0, 0x01, 0x00, 0x01, 0x24, 0x7F, 0x7F, 0x45,
  0x23, 0x00, 0x7E, 0x7F, 0x7F, 0x00, 0x00, 0x01, 0x01, 0xF7, 0x00, 0x00, 0x01]

/-- The bytes of the `profile_disabled_report` example (R313), addresses from 0 up. -/
def profileDisabledReportBytes : List Byte := [0x0D, 0x7F, 0x7E, 0xF0, 0x01, 0x00, 0x01, 0x25, 0x7F, 0x7F, 0x45,
  0x23, 0x00, 0x7E, 0x7F, 0x7F, 0x00, 0x00, 0x01, 0x01, 0xF7, 0x00, 0x00, 0x01]

/-- The bytes of the `profile_added` example (R317), addresses from 0 up. -/
def profileAddedBytes : List Byte := [0x0D, 0x7F, 0x7E, 0xF0, 0x01, 0x00, 0x01, 0x26, 0x7F, 0x7F, 0x45, 0x23,
  0x00, 0x7E, 0x7F, 0x7F, 0xF7, 0x00, 0x01, 0x01]

/-- The bytes of the `profile_removed` example (R321), addresses from 0 up. -/
def profileRemovedBytes : List Byte := [0x0D, 0x7F, 0x7E, 0xF0, 0x01, 0x00, 0x01, 0x27, 0x7F, 0x7F, 0x45, 0x23,
  0x00, 0x7E, 0x7F, 0x7F, 0xF7, 0x00, 0x01, 0x01]

/-- The bytes of the `profile_specific_data` example (R325), addresses from 0 up. -/
def profileSpecificDataBytes : List Byte := [0x0D, 0x7F, 0x7E, 0xF0, 0x01, 0x00, 0x01, 0x2F, 0x3C, 0x7A, 0x45,
  0x23, 0x00, 0x7E, 0x71, 0x5E, 0x00, 0x00, 0x01, 0x01, 0x01, 0x03, 0x00, 0x00, 0xF7, 0x00, 0x03, 0x02]

/-- The bytes of the `property_exchange_capabilities` example (R361), addresses from 0 up. -/
def propertyExchangeCapabilitiesBytes : List Byte := [0x0D, 0x7F, 0x7E, 0xF0, 0x01, 0x00, 0x01, 0x30, 0x3C,
  0x7A, 0x45, 0x23, 0x00, 0x01, 0x71, 0x5E, 0xF7, 0x00, 0x00, 0x01]

/-- The bytes of the `property_exchange_capabilities_reply` example (R365), addresses from 0 up. -/
def propertyExchangeCapabilitiesReplyBytes : List Byte := [0x0D, 0x7F, 0x7E, 0xF0, 0x01, 0x00, 0x01, 0x31, 0x3C,
  0x7A, 0x45, 0x23, 0x00, 0x01, 0x71, 0x5E, 0xF7, 0x00, 0x00, 0x01]

/-- The bytes of the `get_property_data` example (R369), addresses from 0 up. -/
def getPropertyDataBytes : List Byte := [0x0D, 0x7F, 0x7E, 0xF0, 0x01, 0x00, 0x01, 0x34, 0x3C, 0x7A, 0x45, 0x23,
  0x00, 0x01, 0x71, 0x5E, 0x00, 0x7D, 0x7B, 0x02, 0x00, 0x01, 0x00, 0x01, 0xF7, 0x00, 0x00, 0x00]

/-- The bytes of the `get_property_data_reply` example (R373), addresses from 0 up. -/
def getPropertyDataReplyBytes : List Byte := [0x0D, 0x7F, 0x7E, 0xF0, 0x01, 0x00, 0x01, 0x35, 0x3C, 0x7A, 0x45,
  0x23, 0x00, 0x01, 0x71, 0x5E, 0x00, 0x7D, 0x7B, 0x02, 0x00, 0x01, 0x00, 0x01, 0xF7, 0x00, 0x00, 0x00]

/-- The bytes of the `set_property_data` example (R377), addresses from 0 up. -/
def setPropertyDataBytes : List Byte := [0x0D, 0x7F, 0x7E, 0xF0, 0x01, 0x00, 0x01, 0x36, 0x3C, 0x7A, 0x45, 0x23,
  0x00, 0x01, 0x71, 0x5E, 0x00, 0x7D, 0x7B, 0x02, 0x00, 0x01, 0x00, 0x01, 0xF7, 0x00, 0x00, 0x00]

/-- The bytes of the `set_property_data_reply` example (R381), addresses from 0 up. -/
def setPropertyDataReplyBytes : List Byte := [0x0D, 0x7F, 0x7E, 0xF0, 0x01, 0x00, 0x01, 0x37, 0x3C, 0x7A, 0x45,
  0x23, 0x00, 0x01, 0x71, 0x5E, 0x00, 0x7D, 0x7B, 0x02, 0x00, 0x01, 0x00, 0x01, 0xF7, 0x00, 0x00, 0x00]

/-- The bytes of the `subscription` example (R385), addresses from 0 up. -/
def subscriptionBytes : List Byte := [0x0D, 0x7F, 0x7E, 0xF0, 0x01, 0x00, 0x01, 0x38, 0x3C, 0x7A, 0x45, 0x23,
  0x00, 0x01, 0x71, 0x5E, 0x00, 0x7D, 0x7B, 0x02, 0x00, 0x01, 0x00, 0x01, 0xF7, 0x00, 0x00, 0x00]

/-- The bytes of the `subscription_reply` example (R389), addresses from 0 up. -/
def subscriptionReplyBytes : List Byte := [0x0D, 0x7F, 0x7E, 0xF0, 0x01, 0x00, 0x01, 0x39, 0x3C, 0x7A, 0x45,
  0x23, 0x00, 0x01, 0x71, 0x5E, 0x00, 0x7D, 0x7B, 0x02, 0x00, 0x01, 0x00, 0x01, 0xF7, 0x00, 0x00, 0x00]

/-- The bytes of the `process_capabilities` example (R441), addresses from 0 up. -/
def processCapabilitiesBytes : List Byte := [0x0D, 0x7F, 0x7E, 0xF0, 0x01, 0x00, 0x01, 0x40, 0x3C, 0x7A, 0x45,
  0x23, 0xF7, 0x00, 0x71, 0x5E]

/-- The bytes of the `process_capabilities_reply` example (R445), addresses from 0 up. -/
def processCapabilitiesReplyBytes : List Byte := [0x0D, 0x7F, 0x7E, 0xF0, 0x01, 0x00, 0x01, 0x41, 0x3C, 0x7A,
  0x45, 0x23, 0xF7, 0x01, 0x71, 0x5E]

/-- The bytes of the `message_report` example (R449), addresses from 0 up. -/
def messageReportBytes : List Byte := [0x0D, 0x7F, 0x7E, 0xF0, 0x01, 0x00, 0x01, 0x42, 0x3C, 0x7A, 0x45, 0x23,
  0x01, 0x01, 0x71, 0x5E, 0xF7, 0x04, 0x03, 0x02]

/-- The bytes of the `message_report_reply` example (R453), addresses from 0 up. -/
def messageReportReplyBytes : List Byte := [0x0D, 0x7F, 0x7E, 0xF0, 0x01, 0x00, 0x01, 0x43, 0x3C, 0x7A, 0x45,
  0x23, 0x02, 0x01, 0x71, 0x5E, 0xF7, 0x00, 0x04, 0x03]

/-- The bytes of the `end_of_message_report` example (R457), addresses from 0 up. -/
def endOfMessageReportBytes : List Byte := [0x0D, 0x7F, 0x7E, 0xF0, 0x01, 0x00, 0x01, 0x44, 0x3C, 0x7A, 0x45,
  0x23, 0xF7, 0x00, 0x71, 0x5E]

/-- The examples of all kinds, in the row order of R96. -/
def examples : List (Kind × List Byte) :=
  [(.discovery, discoveryBytes), (.discoveryReply, discoveryReplyBytes), (.invalidateMuid, invalidateMuidBytes),
    (.ack, ackBytes), (.nak, nakBytes), (.initiateProtocolNegotiation, initiateProtocolNegotiationBytes),
    (.initiateProtocolNegotiationReply, initiateProtocolNegotiationReplyBytes), (.setProtocolType,
    setProtocolTypeBytes), (.confirmProtocolType, confirmProtocolTypeBytes), (.confirmProtocolTypeReply,
    confirmProtocolTypeReplyBytes), (.confirmProtocolTypeEstablished, confirmProtocolTypeEstablishedBytes),
    (.profile, profileBytes), (.profileReply, profileReplyBytes), (.profileEnabledReport,
    profileEnabledReportBytes), (.profileDisabledReport, profileDisabledReportBytes), (.profileAdded,
    profileAddedBytes), (.profileRemoved, profileRemovedBytes), (.profileSpecificData,
    profileSpecificDataBytes), (.propertyExchangeCapabilities, propertyExchangeCapabilitiesBytes),
    (.propertyExchangeCapabilitiesReply, propertyExchangeCapabilitiesReplyBytes), (.getPropertyData,
    getPropertyDataBytes), (.getPropertyDataReply, getPropertyDataReplyBytes), (.setPropertyData,
    setPropertyDataBytes), (.setPropertyDataReply, setPropertyDataReplyBytes), (.subscription,
    subscriptionBytes), (.subscriptionReply, subscriptionReplyBytes), (.processCapabilities,
    processCapabilitiesBytes), (.processCapabilitiesReply, processCapabilitiesReplyBytes), (.messageReport,
    messageReportBytes), (.messageReportReply, messageReportReplyBytes), (.endOfMessageReport,
    endOfMessageReportBytes)]

/-! ## Well-formedness: each check refuses an ill-formed operand (R39) -/

/-- The header of an example with the source out of range. -/
def badSource : Header := { exHeader with source := 0x10000000 }

theorem test_wellFormed_management_muids :
    ([(.putDiscovery 64 badSource #v[0x01, 0x00, 0x00] 0x0100 0x0001 #v[0x01, 0x00, 0x00, 0x00] 0x0F
      0x00000200), (.putDiscoveryReply 64 badSource 0x0ABCDEF1 #v[0x01, 0x00, 0x00] 0x0100 0x0001 #v[0x01, 0x00,
      0x00, 0x00] 0x0F 0x00000200), (.putDiscoveryReply 64 exHeader 0x10000000 #v[0x01, 0x00, 0x00] 0x0100
      0x0001 #v[0x01, 0x00, 0x00, 0x00] 0x0F 0x00000200), (.putInvalidateMuid 64 badSource 0x0FFFFFFF),
      (.putInvalidateMuid 64 exHeader 0x10000000), (.putAck 64 badSource 0x0ABCDEF1 0x34 0x00 0x00 #v[0x00,
      0x00, 0x00, 0x00, 0x00] [0x41, 0x42]), (.putAck 64 exHeader 0x10000000 0x34 0x00 0x00 #v[0x00, 0x00, 0x00,
      0x00, 0x00] [0x41, 0x42]), (.putNak 64 badSource 0x0ABCDEF1), (.putNak 64 exHeader 0x10000000)] : List
      Instr).map Instr.wellFormed =
      List.replicate 9 false := by decide

theorem test_wellFormed_protocol_muids :
    ([(.putInitiateProtocolNegotiation 64 badSource 0x0ABCDEF1 0x10 [#v[0x01, 0x00, 0x00, 0x00, 0x00], #v[0x02,
      0x00, 0x00, 0x00, 0x00]]), (.putInitiateProtocolNegotiation 64 exHeader 0x10000000 0x10 [#v[0x01, 0x00,
      0x00, 0x00, 0x00], #v[0x02, 0x00, 0x00, 0x00, 0x00]]), (.putInitiateProtocolNegotiationReply 64 badSource
      0x0ABCDEF1 0x10 [#v[0x02, 0x00, 0x00, 0x00, 0x00]]), (.putInitiateProtocolNegotiationReply 64 exHeader
      0x10000000 0x10 [#v[0x02, 0x00, 0x00, 0x00, 0x00]]), (.putSetProtocolType 64 badSource 0x0ABCDEF1 0x10
      #v[0x02, 0x00, 0x00, 0x00, 0x00]), (.putSetProtocolType 64 exHeader 0x10000000 0x10 #v[0x02, 0x00, 0x00,
      0x00, 0x00]), (.putConfirmProtocolType 64 badSource 0x0ABCDEF1 0x10), (.putConfirmProtocolType 64 exHeader
      0x10000000 0x10), (.putConfirmProtocolTypeReply 64 badSource 0x0ABCDEF1 0x10),
      (.putConfirmProtocolTypeReply 64 exHeader 0x10000000 0x10), (.putConfirmProtocolTypeEstablished 64
      badSource 0x0ABCDEF1 0x10), (.putConfirmProtocolTypeEstablished 64 exHeader 0x10000000 0x10)] : List
      Instr).map Instr.wellFormed =
      List.replicate 12 false := by decide

theorem test_wellFormed_profile_muids :
    ([(.putProfile 64 badSource 0x0ABCDEF1), (.putProfile 64 exHeader 0x10000000), (.putProfileReply 64
      badSource 0x0ABCDEF1 [#v[0x7E, 0x00, 0x01, 0x01, 0x00]] []), (.putProfileReply 64 exHeader 0x10000000
      [#v[0x7E, 0x00, 0x01, 0x01, 0x00]] []), (.putProfileEnabledReport 64 badSource #v[0x7E, 0x00, 0x01, 0x01,
      0x00] 0x0001), (.putProfileDisabledReport 64 badSource #v[0x7E, 0x00, 0x01, 0x01, 0x00] 0x0001),
      (.putProfileAdded 64 badSource #v[0x7E, 0x00, 0x01, 0x01, 0x00]), (.putProfileRemoved 64 badSource
      #v[0x7E, 0x00, 0x01, 0x01, 0x00]), (.putProfileSpecificData 64 badSource 0x0ABCDEF1 #v[0x7E, 0x00, 0x01,
      0x01, 0x00] [0x01, 0x02, 0x03]), (.putProfileSpecificData 64 exHeader 0x10000000 #v[0x7E, 0x00, 0x01,
      0x01, 0x00] [0x01, 0x02, 0x03])] : List Instr).map Instr.wellFormed =
      List.replicate 10 false := by decide

theorem test_wellFormed_propertyExchange_muids :
    ([(.putPropertyExchangeCapabilities 64 badSource 0x0ABCDEF1 0x01 0x00 0x01),
      (.putPropertyExchangeCapabilities 64 exHeader 0x10000000 0x01 0x00 0x01),
      (.putPropertyExchangeCapabilitiesReply 64 badSource 0x0ABCDEF1 0x01 0x00 0x01),
      (.putPropertyExchangeCapabilitiesReply 64 exHeader 0x10000000 0x01 0x00 0x01), (.putGetPropertyData 64
      badSource 0x0ABCDEF1 0x01 [0x7B, 0x7D] 0x0001 0x0001 []), (.putGetPropertyData 64 exHeader 0x10000000 0x01
      [0x7B, 0x7D] 0x0001 0x0001 []), (.putGetPropertyDataReply 64 badSource 0x0ABCDEF1 0x01 [0x7B, 0x7D] 0x0001
      0x0001 []), (.putGetPropertyDataReply 64 exHeader 0x10000000 0x01 [0x7B, 0x7D] 0x0001 0x0001 []),
      (.putSetPropertyData 64 badSource 0x0ABCDEF1 0x01 [0x7B, 0x7D] 0x0001 0x0001 []), (.putSetPropertyData 64
      exHeader 0x10000000 0x01 [0x7B, 0x7D] 0x0001 0x0001 []), (.putSetPropertyDataReply 64 badSource 0x0ABCDEF1
      0x01 [0x7B, 0x7D] 0x0001 0x0001 []), (.putSetPropertyDataReply 64 exHeader 0x10000000 0x01 [0x7B, 0x7D]
      0x0001 0x0001 []), (.putSubscription 64 badSource 0x0ABCDEF1 0x01 [0x7B, 0x7D] 0x0001 0x0001 []),
      (.putSubscription 64 exHeader 0x10000000 0x01 [0x7B, 0x7D] 0x0001 0x0001 []), (.putSubscriptionReply 64
      badSource 0x0ABCDEF1 0x01 [0x7B, 0x7D] 0x0001 0x0001 []), (.putSubscriptionReply 64 exHeader 0x10000000
      0x01 [0x7B, 0x7D] 0x0001 0x0001 [])] : List Instr).map Instr.wellFormed =
      List.replicate 16 false := by decide

theorem test_wellFormed_processInquiry_muids :
    ([(.putProcessCapabilities 64 badSource 0x0ABCDEF1), (.putProcessCapabilities 64 exHeader 0x10000000),
      (.putProcessCapabilitiesReply 64 badSource 0x0ABCDEF1 0x01), (.putProcessCapabilitiesReply 64 exHeader
      0x10000000 0x01), (.putMessageReport 64 badSource 0x0ABCDEF1 0x01 0x01 0x02 0x03 0x04), (.putMessageReport
      64 exHeader 0x10000000 0x01 0x01 0x02 0x03 0x04), (.putMessageReportReply 64 badSource 0x0ABCDEF1 0x01
      0x02 0x03 0x04), (.putMessageReportReply 64 exHeader 0x10000000 0x01 0x02 0x03 0x04),
      (.putEndOfMessageReport 64 badSource 0x0ABCDEF1), (.putEndOfMessageReport 64 exHeader 0x10000000)] : List
      Instr).map Instr.wellFormed =
      List.replicate 10 false := by decide

theorem test_wellFormed_muid_operations :
    ([.putMuid 0x10000000, .putMuid 0x0FFFFFFF, .putMuidWithPosition 0 0x10000000,
      .putMuidWithPosition 0 0x0FFFFFFF] : List Instr).map Instr.wellFormed = [false, true, false, true] := by
  decide

theorem test_wellFormed_list8 (l m : List (Bytes 5)) (h : l.length = 256) (hm : m.length = 255) :
    (Instr.putInitiateProtocolNegotiation 64 exHeader 0 0 l).wellFormed = false ∧
    (Instr.putInitiateProtocolNegotiation 64 exHeader 0 0 m).wellFormed = true ∧
    (Instr.putInitiateProtocolNegotiationReply 64 exHeader 0 0 l).wellFormed = false := by
  simp [Instr.wellFormed, countFits, muidLegal, exHeader, h, hm]

theorem test_wellFormed_list16 (l : List Byte) (ps : List (Bytes 5)) (h : l.length = 65536)
    (hp : ps.length = 65536) :
    (Instr.putAck 64 exHeader 0 0 0 0 (.replicate 5 0) l).wellFormed = false ∧
    (Instr.putProfileReply 64 exHeader 0 ps []).wellFormed = false ∧
    (Instr.putProfileReply 64 exHeader 0 [] ps).wellFormed = false := by
  simp [Instr.wellFormed, countFits, h, hp]

theorem test_wellFormed_property_data (long : List Byte) (h : long.length = 65536) :
    (Instr.putGetPropertyData 64 exHeader 0 0 long 0 0 []).wellFormed = false ∧
    (Instr.putGetPropertyData 64 exHeader 0 0 [] 0 0 long).wellFormed = false ∧
    (Instr.putGetPropertyDataReply 64 exHeader 0 0 long 0 0 []).wellFormed = false ∧
    (Instr.putGetPropertyDataReply 64 exHeader 0 0 [] 0 0 long).wellFormed = false ∧
    (Instr.putSetPropertyData 64 exHeader 0 0 long 0 0 []).wellFormed = false ∧
    (Instr.putSetPropertyData 64 exHeader 0 0 [] 0 0 long).wellFormed = false ∧
    (Instr.putSetPropertyDataReply 64 exHeader 0 0 long 0 0 []).wellFormed = false ∧
    (Instr.putSetPropertyDataReply 64 exHeader 0 0 [] 0 0 long).wellFormed = false ∧
    (Instr.putSubscription 64 exHeader 0 0 long 0 0 []).wellFormed = false ∧
    (Instr.putSubscription 64 exHeader 0 0 [] 0 0 long).wellFormed = false ∧
    (Instr.putSubscriptionReply 64 exHeader 0 0 long 0 0 []).wellFormed = false ∧
    (Instr.putSubscriptionReply 64 exHeader 0 0 [] 0 0 long).wellFormed = false := by
  simp [Instr.wellFormed, countFits, h]

theorem test_wellFormed_list32 (long : List Byte) (h : long.length = 2 ^ 32) :
    (Instr.putProfileSpecificData 64 exHeader 0 (.replicate 5 0) long).wellFormed = false := by
  simp [Instr.wellFormed, countFits, h]

/-! ## Decoding: the request codes of V4, written out -/

/-- The header of a table word: zeros. -/
def zeroHeader : Header := { deviceId := 0, version := 0, source := 0 }

/-- Every word of the table decodes to the instruction beside it. -/
def decodesTo (table : List (Nat × Instr)) : Bool :=
  table.all fun row => decide (decodeTableWord 16 row.1 = some row.2)

theorem test_decode_is_management :
    decodesTo [(0x0070, .isDiscovery 0), (0x0071, .isDiscoveryReply 0), (0x007E, .isInvalidateMuid 0), (0x007D,
      .isAck 0), (0x007F, .isNak 0)] = true := by decide

theorem test_decode_is_protocol :
    decodesTo [(0x0010, .isInitiateProtocolNegotiation 0), (0x0011, .isInitiateProtocolNegotiationReply 0),
      (0x0012, .isSetProtocolType 0), (0x0013, .isConfirmProtocolType 0), (0x0014, .isConfirmProtocolTypeReply
      0), (0x0015, .isConfirmProtocolTypeEstablished 0)] = true := by decide

theorem test_decode_is_profile :
    decodesTo [(0x0020, .isProfile 0), (0x0021, .isProfileReply 0), (0x0024, .isProfileEnabledReport 0),
      (0x0025, .isProfileDisabledReport 0), (0x0026, .isProfileAdded 0), (0x0027, .isProfileRemoved 0), (0x002F,
      .isProfileSpecificData 0)] = true := by decide

theorem test_decode_is_propertyExchange :
    decodesTo [(0x0030, .isPropertyExchangeCapabilities 0), (0x0031, .isPropertyExchangeCapabilitiesReply 0),
      (0x0034, .isGetPropertyData 0), (0x0035, .isGetPropertyDataReply 0), (0x0036, .isSetPropertyData 0),
      (0x0037, .isSetPropertyDataReply 0), (0x0038, .isSubscription 0), (0x0039, .isSubscriptionReply 0)] = true
      := by decide

theorem test_decode_is_processInquiry :
    decodesTo [(0x0040, .isProcessCapabilities 0), (0x0041, .isProcessCapabilitiesReply 0), (0x0042,
      .isMessageReport 0), (0x0043, .isMessageReportReply 0), (0x0044, .isEndOfMessageReport 0)] = true := by
      decide

theorem test_decode_get_management :
    decodesTo [(0x0170, .getDiscovery 0), (0x0171, .getDiscoveryReply 0), (0x017E, .getInvalidateMuid 0),
      (0x017D, .getAck 0), (0x017F, .getNak 0)] = true := by decide

theorem test_decode_get_protocol :
    decodesTo [(0x0110, .getInitiateProtocolNegotiation 0), (0x0111, .getInitiateProtocolNegotiationReply 0),
      (0x0112, .getSetProtocolType 0), (0x0113, .getConfirmProtocolType 0), (0x0114,
      .getConfirmProtocolTypeReply 0), (0x0115, .getConfirmProtocolTypeEstablished 0)] = true := by decide

theorem test_decode_get_profile :
    decodesTo [(0x0120, .getProfile 0), (0x0121, .getProfileReply 0), (0x0124, .getProfileEnabledReport 0),
      (0x0125, .getProfileDisabledReport 0), (0x0126, .getProfileAdded 0), (0x0127, .getProfileRemoved 0),
      (0x012F, .getProfileSpecificData 0)] = true := by decide

theorem test_decode_get_propertyExchange :
    decodesTo [(0x0130, .getPropertyExchangeCapabilities 0), (0x0131, .getPropertyExchangeCapabilitiesReply 0),
      (0x0134, .getGetPropertyData 0), (0x0135, .getGetPropertyDataReply 0), (0x0136, .getSetPropertyData 0),
      (0x0137, .getSetPropertyDataReply 0), (0x0138, .getSubscription 0), (0x0139, .getSubscriptionReply 0)] =
      true := by decide

theorem test_decode_get_processInquiry :
    decodesTo [(0x0140, .getProcessCapabilities 0), (0x0141, .getProcessCapabilitiesReply 0), (0x0142,
      .getMessageReport 0), (0x0143, .getMessageReportReply 0), (0x0144, .getEndOfMessageReport 0)] = true := by
      decide

theorem test_decode_put_management :
    decodesTo [(0x0270, .putDiscovery 0 zeroHeader (.replicate 3 0) 0 0 (.replicate 4 0) 0 0), (0x0271,
      .putDiscoveryReply 0 zeroHeader 0 (.replicate 3 0) 0 0 (.replicate 4 0) 0 0), (0x027E, .putInvalidateMuid
      0 zeroHeader 0), (0x027D, .putAck 0 zeroHeader 0 0 0 0 (.replicate 5 0) []), (0x027F, .putNak 0 zeroHeader
      0)] = true := by decide

theorem test_decode_put_protocol :
    decodesTo [(0x0210, .putInitiateProtocolNegotiation 0 zeroHeader 0 0 []), (0x0211,
      .putInitiateProtocolNegotiationReply 0 zeroHeader 0 0 []), (0x0212, .putSetProtocolType 0 zeroHeader 0 0
      (.replicate 5 0)), (0x0213, .putConfirmProtocolType 0 zeroHeader 0 0), (0x0214,
      .putConfirmProtocolTypeReply 0 zeroHeader 0 0), (0x0215, .putConfirmProtocolTypeEstablished 0 zeroHeader 0
      0)] = true := by decide

theorem test_decode_put_profile :
    decodesTo [(0x0220, .putProfile 0 zeroHeader 0), (0x0221, .putProfileReply 0 zeroHeader 0 [] []), (0x0224,
      .putProfileEnabledReport 0 zeroHeader (.replicate 5 0) 0), (0x0225, .putProfileDisabledReport 0 zeroHeader
      (.replicate 5 0) 0), (0x0226, .putProfileAdded 0 zeroHeader (.replicate 5 0)), (0x0227, .putProfileRemoved
      0 zeroHeader (.replicate 5 0)), (0x022F, .putProfileSpecificData 0 zeroHeader 0 (.replicate 5 0) [])] =
      true := by decide

theorem test_decode_put_propertyExchange :
    decodesTo [(0x0230, .putPropertyExchangeCapabilities 0 zeroHeader 0 0 0 0), (0x0231,
      .putPropertyExchangeCapabilitiesReply 0 zeroHeader 0 0 0 0), (0x0234, .putGetPropertyData 0 zeroHeader 0 0
      [] 0 0 []), (0x0235, .putGetPropertyDataReply 0 zeroHeader 0 0 [] 0 0 []), (0x0236, .putSetPropertyData 0
      zeroHeader 0 0 [] 0 0 []), (0x0237, .putSetPropertyDataReply 0 zeroHeader 0 0 [] 0 0 []), (0x0238,
      .putSubscription 0 zeroHeader 0 0 [] 0 0 []), (0x0239, .putSubscriptionReply 0 zeroHeader 0 0 [] 0 0 [])]
      = true := by decide

theorem test_decode_put_processInquiry :
    decodesTo [(0x0240, .putProcessCapabilities 0 zeroHeader 0), (0x0241, .putProcessCapabilitiesReply 0
      zeroHeader 0 0), (0x0242, .putMessageReport 0 zeroHeader 0 0 0 0 0 0), (0x0243, .putMessageReportReply 0
      zeroHeader 0 0 0 0 0), (0x0244, .putEndOfMessageReport 0 zeroHeader 0)] = true := by decide

theorem test_decode_muid :
    decodesTo [(0x0300, .generateMuid), (0x0301, .putMuid 0), (0x0302, .getMuid), (0x0303, .putMuidWithPosition 0 0),
      (0x0304, .getMuidWithPosition 0)] = true := by decide

/-- V6: the codes that are illegal, with the reason. -/
theorem test_decode_rejects :
    ([0x0000, 0x0022, 0x0180, 0x0305, 0x03FF, 0x0470, 0x8270, 0xFFFF] : List Half).map
      (fun op => decode (Request.ofCode op)) =
    [.error .reservedSubId, .error .reservedSubId, .error .reservedSubId, .error .reservedMuidSelector,
     .error .reservedMuidSelector, .error .reservedBits, .error .reservedBits, .error .reservedBits] := by decide

/-- The operands reach the instruction, each on its own port (R100). -/
theorem test_encode_then_decode :
    decode (encode (.putAck 64 exHeader 0x0ABCDEF1 0x34 0x00 0x00 #v[0x00, 0x00, 0x00, 0x00, 0x00] [0x41, 0x42])) =
      .ok (.putAck 64 exHeader 0x0ABCDEF1 0x34 0x00 0x00 #v[0x00, 0x00, 0x00, 0x00, 0x00] [0x41, 0x42]) := by decide

/-! ## Puts: the examples of R201 to R457 -/

theorem test_putDiscovery :
    written 32 (exec (.putDiscovery 64 exHeader #v[0x01, 0x00, 0x00] 0x0100 0x0001 #v[0x01, 0x00, 0x00, 0x00]
      0x0F 0x00000200) State.reset) = some (some 32, discoveryBytes) := by decide

theorem test_putDiscoveryReply :
    written 32 (exec (.putDiscoveryReply 64 exHeader 0x0ABCDEF1 #v[0x01, 0x00, 0x00] 0x0100 0x0001 #v[0x01,
      0x00, 0x00, 0x00] 0x0F 0x00000200) State.reset) = some (some 32, discoveryReplyBytes) := by decide

theorem test_putInvalidateMuid :
    written 20 (exec (.putInvalidateMuid 64 exHeader 0x0FFFFFFF) State.reset) = some (some 20,
      invalidateMuidBytes) := by decide

theorem test_putAck :
    written 28 (exec (.putAck 64 exHeader 0x0ABCDEF1 0x34 0x00 0x00 #v[0x00, 0x00, 0x00, 0x00, 0x00] [0x41,
      0x42]) State.reset) = some (some 28, ackBytes) := by decide

theorem test_putNak :
    written 16 (exec (.putNak 64 exHeader 0x0ABCDEF1) State.reset) = some (some 16, nakBytes) := by decide

theorem test_putInitiateProtocolNegotiation :
    written 28 (exec (.putInitiateProtocolNegotiation 64 exHeader 0x0ABCDEF1 0x10 [#v[0x01, 0x00, 0x00, 0x00,
      0x00], #v[0x02, 0x00, 0x00, 0x00, 0x00]]) State.reset) = some (some 28, initiateProtocolNegotiationBytes)
      := by decide

theorem test_putInitiateProtocolNegotiationReply :
    written 24 (exec (.putInitiateProtocolNegotiationReply 64 exHeader 0x0ABCDEF1 0x10 [#v[0x02, 0x00, 0x00,
      0x00, 0x00]]) State.reset) = some (some 24, initiateProtocolNegotiationReplyBytes) := by decide

theorem test_putSetProtocolType :
    written 24 (exec (.putSetProtocolType 64 exHeader 0x0ABCDEF1 0x10 #v[0x02, 0x00, 0x00, 0x00, 0x00])
      State.reset) = some (some 24, setProtocolTypeBytes) := by decide

theorem test_putConfirmProtocolType :
    written 64 (exec (.putConfirmProtocolType 64 exHeader 0x0ABCDEF1 0x10) State.reset) = some (some 64,
      confirmProtocolTypeBytes) := by decide +kernel

theorem test_putConfirmProtocolTypeReply :
    written 64 (exec (.putConfirmProtocolTypeReply 64 exHeader 0x0ABCDEF1 0x10) State.reset) = some (some 64,
      confirmProtocolTypeReplyBytes) := by decide +kernel

theorem test_putConfirmProtocolTypeEstablished :
    written 16 (exec (.putConfirmProtocolTypeEstablished 64 exHeader 0x0ABCDEF1 0x10) State.reset) = some (some
      16, confirmProtocolTypeEstablishedBytes) := by decide

theorem test_putProfile :
    written 16 (exec (.putProfile 64 exHeader 0x0ABCDEF1) State.reset) = some (some 16, profileBytes) := by
      decide

theorem test_putProfileReply :
    written 24 (exec (.putProfileReply 64 exHeader 0x0ABCDEF1 [#v[0x7E, 0x00, 0x01, 0x01, 0x00]] [])
      State.reset) = some (some 24, profileReplyBytes) := by decide

theorem test_putProfileEnabledReport :
    written 24 (exec (.putProfileEnabledReport 64 exHeader #v[0x7E, 0x00, 0x01, 0x01, 0x00] 0x0001) State.reset)
      = some (some 24, profileEnabledReportBytes) := by decide

theorem test_putProfileDisabledReport :
    written 24 (exec (.putProfileDisabledReport 64 exHeader #v[0x7E, 0x00, 0x01, 0x01, 0x00] 0x0001)
      State.reset) = some (some 24, profileDisabledReportBytes) := by decide

theorem test_putProfileAdded :
    written 20 (exec (.putProfileAdded 64 exHeader #v[0x7E, 0x00, 0x01, 0x01, 0x00]) State.reset) = some (some
      20, profileAddedBytes) := by decide

theorem test_putProfileRemoved :
    written 20 (exec (.putProfileRemoved 64 exHeader #v[0x7E, 0x00, 0x01, 0x01, 0x00]) State.reset) = some (some
      20, profileRemovedBytes) := by decide

theorem test_putProfileSpecificData :
    written 28 (exec (.putProfileSpecificData 64 exHeader 0x0ABCDEF1 #v[0x7E, 0x00, 0x01, 0x01, 0x00] [0x01,
      0x02, 0x03]) State.reset) = some (some 28, profileSpecificDataBytes) := by decide

theorem test_putPropertyExchangeCapabilities :
    written 20 (exec (.putPropertyExchangeCapabilities 64 exHeader 0x0ABCDEF1 0x01 0x00 0x01) State.reset) =
      some (some 20, propertyExchangeCapabilitiesBytes) := by decide

theorem test_putPropertyExchangeCapabilitiesReply :
    written 20 (exec (.putPropertyExchangeCapabilitiesReply 64 exHeader 0x0ABCDEF1 0x01 0x00 0x01) State.reset)
      = some (some 20, propertyExchangeCapabilitiesReplyBytes) := by decide

theorem test_putGetPropertyData :
    written 28 (exec (.putGetPropertyData 64 exHeader 0x0ABCDEF1 0x01 [0x7B, 0x7D] 0x0001 0x0001 [])
      State.reset) = some (some 28, getPropertyDataBytes) := by decide

theorem test_putGetPropertyDataReply :
    written 28 (exec (.putGetPropertyDataReply 64 exHeader 0x0ABCDEF1 0x01 [0x7B, 0x7D] 0x0001 0x0001 [])
      State.reset) = some (some 28, getPropertyDataReplyBytes) := by decide

theorem test_putSetPropertyData :
    written 28 (exec (.putSetPropertyData 64 exHeader 0x0ABCDEF1 0x01 [0x7B, 0x7D] 0x0001 0x0001 [])
      State.reset) = some (some 28, setPropertyDataBytes) := by decide

theorem test_putSetPropertyDataReply :
    written 28 (exec (.putSetPropertyDataReply 64 exHeader 0x0ABCDEF1 0x01 [0x7B, 0x7D] 0x0001 0x0001 [])
      State.reset) = some (some 28, setPropertyDataReplyBytes) := by decide

theorem test_putSubscription :
    written 28 (exec (.putSubscription 64 exHeader 0x0ABCDEF1 0x01 [0x7B, 0x7D] 0x0001 0x0001 []) State.reset) =
      some (some 28, subscriptionBytes) := by decide

theorem test_putSubscriptionReply :
    written 28 (exec (.putSubscriptionReply 64 exHeader 0x0ABCDEF1 0x01 [0x7B, 0x7D] 0x0001 0x0001 [])
      State.reset) = some (some 28, subscriptionReplyBytes) := by decide

theorem test_putProcessCapabilities :
    written 16 (exec (.putProcessCapabilities 64 exHeader 0x0ABCDEF1) State.reset) = some (some 16,
      processCapabilitiesBytes) := by decide

theorem test_putProcessCapabilitiesReply :
    written 16 (exec (.putProcessCapabilitiesReply 64 exHeader 0x0ABCDEF1 0x01) State.reset) = some (some 16,
      processCapabilitiesReplyBytes) := by decide

theorem test_putMessageReport :
    written 20 (exec (.putMessageReport 64 exHeader 0x0ABCDEF1 0x01 0x01 0x02 0x03 0x04) State.reset) = some
      (some 20, messageReportBytes) := by decide

theorem test_putMessageReportReply :
    written 20 (exec (.putMessageReportReply 64 exHeader 0x0ABCDEF1 0x01 0x02 0x03 0x04) State.reset) = some
      (some 20, messageReportReplyBytes) := by decide

theorem test_putEndOfMessageReport :
    written 16 (exec (.putEndOfMessageReport 64 exHeader 0x0ABCDEF1) State.reset) = some (some 16,
      endOfMessageReportBytes) := by decide

/-! ## Gets: the records of R202 to R458 -/

theorem test_getDiscovery :
    rspOf (exec (.getDiscovery 32) (bufferOf discoveryBytes)) = gotOk 32 (exRecordBc [(.manufacturerId, .bytes
      [0x01, 0x00, 0x00]), (.deviceFamily, .u16 0x0100), (.deviceFamilyModelNumber, .u16 0x0001),
      (.softwareRevisionLevel, .bytes [0x01, 0x00, 0x00, 0x00]), (.capability, .u8 0x0F), (.maxSysexMessageSize,
      .u32 0x00000200)]) := by decide

theorem test_getDiscoveryReply :
    rspOf (exec (.getDiscoveryReply 32) (bufferOf discoveryReplyBytes)) = gotOk 32 (exRecord [(.manufacturerId,
      .bytes [0x01, 0x00, 0x00]), (.deviceFamily, .u16 0x0100), (.deviceFamilyModelNumber, .u16 0x0001),
      (.softwareRevisionLevel, .bytes [0x01, 0x00, 0x00, 0x00]), (.capability, .u8 0x0F), (.maxSysexMessageSize,
      .u32 0x00000200)]) := by decide

theorem test_getInvalidateMuid :
    rspOf (exec (.getInvalidateMuid 20) (bufferOf invalidateMuidBytes)) = gotOk 20 (exRecordBc [(.targetMuid,
      .muid 0x0FFFFFFF)]) := by decide

theorem test_getAck :
    rspOf (exec (.getAck 28) (bufferOf ackBytes)) = gotOk 28 (exRecord [(.origTransaction, .u8 0x34),
      (.statusCode, .u8 0x00), (.statusData, .u8 0x00), (.details, .bytes [0x00, 0x00, 0x00, 0x00, 0x00]),
      (.message, .records .w16 [[0x41], [0x42]])]) := by decide

theorem test_getNak :
    rspOf (exec (.getNak 16) (bufferOf nakBytes)) = gotOk 16 (exRecord []) := by decide

theorem test_getInitiateProtocolNegotiation :
    rspOf (exec (.getInitiateProtocolNegotiation 28) (bufferOf initiateProtocolNegotiationBytes)) = gotOk 28
      (exRecord [(.authorityLevel, .u8 0x10), (.supportedProtocols, .records .w8 [[0x01, 0x00, 0x00, 0x00,
      0x00], [0x02, 0x00, 0x00, 0x00, 0x00]])]) := by decide

theorem test_getInitiateProtocolNegotiationReply :
    rspOf (exec (.getInitiateProtocolNegotiationReply 24) (bufferOf initiateProtocolNegotiationReplyBytes)) =
      gotOk 24 (exRecord [(.authorityLevel, .u8 0x10), (.supportedProtocols, .records .w8 [[0x02, 0x00, 0x00,
      0x00, 0x00]])]) := by decide

theorem test_getSetProtocolType :
    rspOf (exec (.getSetProtocolType 24) (bufferOf setProtocolTypeBytes)) = gotOk 24 (exRecord
      [(.authorityLevel, .u8 0x10), (.protocolType, .bytes [0x02, 0x00, 0x00, 0x00, 0x00])]) := by decide

theorem test_getConfirmProtocolType :
    rspOf (exec (.getConfirmProtocolType 64) (bufferOf confirmProtocolTypeBytes)) = gotOk 64 (exRecord
      [(.authorityLevel, .u8 0x10), (.testData, .pattern true)]) := by decide +kernel

theorem test_getConfirmProtocolTypeReply :
    rspOf (exec (.getConfirmProtocolTypeReply 64) (bufferOf confirmProtocolTypeReplyBytes)) = gotOk 64 (exRecord
      [(.authorityLevel, .u8 0x10), (.testData, .pattern true)]) := by decide +kernel

theorem test_getConfirmProtocolTypeEstablished :
    rspOf (exec (.getConfirmProtocolTypeEstablished 16) (bufferOf confirmProtocolTypeEstablishedBytes)) = gotOk
      16 (exRecord [(.authorityLevel, .u8 0x10)]) := by decide

theorem test_getProfile :
    rspOf (exec (.getProfile 16) (bufferOf profileBytes)) = gotOk 16 (exRecord []) := by decide

theorem test_getProfileReply :
    rspOf (exec (.getProfileReply 24) (bufferOf profileReplyBytes)) = gotOk 24 (exRecord [(.enabledProfiles,
      .records .w16 [[0x7E, 0x00, 0x01, 0x01, 0x00]]), (.disabledProfiles, .records .w16 [])]) := by decide

theorem test_getProfileEnabledReport :
    rspOf (exec (.getProfileEnabledReport 24) (bufferOf profileEnabledReportBytes)) = gotOk 24 (exRecordBc
      [(.profile, .bytes [0x7E, 0x00, 0x01, 0x01, 0x00]), (.channelCount, .u16 0x0001)]) := by decide

theorem test_getProfileDisabledReport :
    rspOf (exec (.getProfileDisabledReport 24) (bufferOf profileDisabledReportBytes)) = gotOk 24 (exRecordBc
      [(.profile, .bytes [0x7E, 0x00, 0x01, 0x01, 0x00]), (.channelCount, .u16 0x0001)]) := by decide

theorem test_getProfileAdded :
    rspOf (exec (.getProfileAdded 20) (bufferOf profileAddedBytes)) = gotOk 20 (exRecordBc [(.profile, .bytes
      [0x7E, 0x00, 0x01, 0x01, 0x00])]) := by decide

theorem test_getProfileRemoved :
    rspOf (exec (.getProfileRemoved 20) (bufferOf profileRemovedBytes)) = gotOk 20 (exRecordBc [(.profile,
      .bytes [0x7E, 0x00, 0x01, 0x01, 0x00])]) := by decide

theorem test_getProfileSpecificData :
    rspOf (exec (.getProfileSpecificData 28) (bufferOf profileSpecificDataBytes)) = gotOk 28 (exRecord
      [(.profileId, .bytes [0x7E, 0x00, 0x01, 0x01, 0x00]), (.data, .records .w32 [[0x01], [0x02], [0x03]])]) :=
      by decide

theorem test_getPropertyExchangeCapabilities :
    rspOf (exec (.getPropertyExchangeCapabilities 20) (bufferOf propertyExchangeCapabilitiesBytes)) = gotOk 20
      (exRecord [(.supportedCount, .u8 0x01), (.major, .u8 0x00), (.minor, .u8 0x01)]) := by decide

theorem test_getPropertyExchangeCapabilitiesReply :
    rspOf (exec (.getPropertyExchangeCapabilitiesReply 20) (bufferOf propertyExchangeCapabilitiesReplyBytes)) =
      gotOk 20 (exRecord [(.supportedCount, .u8 0x01), (.major, .u8 0x00), (.minor, .u8 0x01)]) := by decide

theorem test_getGetPropertyData :
    rspOf (exec (.getGetPropertyData 28) (bufferOf getPropertyDataBytes)) = gotOk 28 (exRecord [(.requestId, .u8
      0x01), (.headerData, .records .w16 [[0x7B], [0x7D]]), (.chunkCount, .u16 0x0001), (.nthChunk, .u16
      0x0001), (.propertyData, .records .w16 [])]) := by decide

theorem test_getGetPropertyDataReply :
    rspOf (exec (.getGetPropertyDataReply 28) (bufferOf getPropertyDataReplyBytes)) = gotOk 28 (exRecord
      [(.requestId, .u8 0x01), (.headerData, .records .w16 [[0x7B], [0x7D]]), (.chunkCount, .u16 0x0001),
      (.nthChunk, .u16 0x0001), (.propertyData, .records .w16 [])]) := by decide

theorem test_getSetPropertyData :
    rspOf (exec (.getSetPropertyData 28) (bufferOf setPropertyDataBytes)) = gotOk 28 (exRecord [(.requestId, .u8
      0x01), (.headerData, .records .w16 [[0x7B], [0x7D]]), (.chunkCount, .u16 0x0001), (.nthChunk, .u16
      0x0001), (.propertyData, .records .w16 [])]) := by decide

theorem test_getSetPropertyDataReply :
    rspOf (exec (.getSetPropertyDataReply 28) (bufferOf setPropertyDataReplyBytes)) = gotOk 28 (exRecord
      [(.requestId, .u8 0x01), (.headerData, .records .w16 [[0x7B], [0x7D]]), (.chunkCount, .u16 0x0001),
      (.nthChunk, .u16 0x0001), (.propertyData, .records .w16 [])]) := by decide

theorem test_getSubscription :
    rspOf (exec (.getSubscription 28) (bufferOf subscriptionBytes)) = gotOk 28 (exRecord [(.requestId, .u8
      0x01), (.headerData, .records .w16 [[0x7B], [0x7D]]), (.chunkCount, .u16 0x0001), (.nthChunk, .u16
      0x0001), (.propertyData, .records .w16 [])]) := by decide

theorem test_getSubscriptionReply :
    rspOf (exec (.getSubscriptionReply 28) (bufferOf subscriptionReplyBytes)) = gotOk 28 (exRecord [(.requestId,
      .u8 0x01), (.headerData, .records .w16 [[0x7B], [0x7D]]), (.chunkCount, .u16 0x0001), (.nthChunk, .u16
      0x0001), (.propertyData, .records .w16 [])]) := by decide

theorem test_getProcessCapabilities :
    rspOf (exec (.getProcessCapabilities 16) (bufferOf processCapabilitiesBytes)) = gotOk 16 (exRecord []) := by
      decide

theorem test_getProcessCapabilitiesReply :
    rspOf (exec (.getProcessCapabilitiesReply 16) (bufferOf processCapabilitiesReplyBytes)) = gotOk 16 (exRecord
      [(.supportedFeatures, .u8 0x01)]) := by decide

theorem test_getMessageReport :
    rspOf (exec (.getMessageReport 20) (bufferOf messageReportBytes)) = gotOk 20 (exRecord [(.dataControl, .u8
      0x01), (.systemMessages, .u8 0x01), (.otherMessages, .u8 0x02), (.channelControllerMessages, .u8 0x03),
      (.noteDataMessages, .u8 0x04)]) := by decide

theorem test_getMessageReportReply :
    rspOf (exec (.getMessageReportReply 20) (bufferOf messageReportReplyBytes)) = gotOk 20 (exRecord
      [(.systemMessages, .u8 0x01), (.otherMessages, .u8 0x02), (.channelControllerMessages, .u8 0x03),
      (.noteDataMessages, .u8 0x04)]) := by decide

theorem test_getEndOfMessageReport :
    rspOf (exec (.getEndOfMessageReport 16) (bufferOf endOfMessageReportBytes)) = gotOk 16 (exRecord []) := by
      decide

/-! ## Classifiers: V8, V9, V10 -/

/-- E4, V9: on an example with `len = count`, the classifier of its kind alone answers 1. -/
def classifiedAlone (ex : Kind × List Byte) : Bool :=
  decide ((Kind.all.filter fun k =>
    flagOf (exec (isOf (BitVec.ofNat 32 ex.2.length) k) (bufferOf ex.2)) = some true) = [ex.1])

/-- V10: on an example of `L` bytes, a get with `len = L-1` or `len = 8`, or with the terminator zeroed, fails. -/
def truncationFails (ex : Kind × List Byte) : Bool :=
  decide (rspOf (exec (getOf (BitVec.ofNat 32 (ex.2.length - 1)) ex.1) (bufferOf ex.2)) = parseError) &&
  decide (rspOf (exec (getOf 8 ex.1) (bufferOf ex.2)) = parseError) &&
  decide (rspOf (exec (getOf (BitVec.ofNat 32 ex.2.length) ex.1)
    (bufferOf (ex.2.set (ex.2.length - 4) 0x00))) = parseError)

theorem test_isManagement_partition : ((examples.drop 0).take 5).all classifiedAlone = true := by decide +kernel

theorem test_getManagement_truncation : ((examples.drop 0).take 5).all truncationFails = true := by
  decide +kernel

theorem test_isProtocol_partition : ((examples.drop 5).take 6).all classifiedAlone = true := by decide +kernel

theorem test_getProtocol_truncation : ((examples.drop 5).take 6).all truncationFails = true := by
  decide +kernel

theorem test_isProfile_partition : ((examples.drop 11).take 7).all classifiedAlone = true := by decide +kernel

theorem test_getProfile_truncation : ((examples.drop 11).take 7).all truncationFails = true := by
  decide +kernel

theorem test_isPropertyExchange_partition : ((examples.drop 18).take 8).all classifiedAlone = true := by decide +kernel

theorem test_getPropertyExchange_truncation : ((examples.drop 18).take 8).all truncationFails = true := by
  decide +kernel

theorem test_isProcessInquiry_partition : ((examples.drop 26).take 5).all classifiedAlone = true := by decide +kernel

theorem test_getProcessInquiry_truncation : ((examples.drop 26).take 5).all truncationFails = true := by
  decide +kernel

/-- V8, on the `nak` example: `len` of 16, 8, 7, 0, then the terminator changed. -/
theorem test_isNak_lengths :
    [16, 8, 7, 0].map (fun len => flagOf (exec (.isNak len) (bufferOf nakBytes))) =
      [some true, some true, some false, some false] ∧
    flagOf (exec (.isNak 16) (bufferOf (nakBytes.set 12 0x00))) = some true ∧
    rspOf (exec (.getNak 16) (bufferOf (nakBytes.set 12 0x00))) = parseError := by decide

/-- A buffer with a reserved Sub-ID#2 (R97). -/
def reservedBytes : List Byte := [0x0D, 0x00, 0x7E, 0xF0, 0x00, 0x00, 0x00, 0x22]

theorem test_reserved_sub_id :
    Kind.all.all (fun k => decide (flagOf (exec (isOf 64 k) (bufferOf reservedBytes)) = some false)) = true ∧
    Kind.all.all (fun k => decide (rspOf (exec (getOf 64 k) (bufferOf reservedBytes)) = parseError)) = true := by
  decide +kernel

theorem test_classify :
    (classify 32 (bufferOf discoveryBytes)).map Prod.fst = some (some .discovery) ∧
    (classify 64 (bufferOf reservedBytes)).map Prod.fst = some none := by decide +kernel

/-! ## Decode corner cases: V7 -/

theorem test_getAck_header_not_checked :
    (nextOf (exec (.getAck 28) (bufferOf (ackBytes.set 1 0x05)))).map (fun t => t.rsp.fields.map Record.deviceId) =
      some (some 0x05) ∧
    (nextOf (exec (.getAck 28) (bufferOf (ackBytes.set 6 0x02)))).map (fun t => t.rsp.fields.map Record.version) =
      some (some 0x02) ∧
    (nextOf (exec (.getAck 28) (bufferOf (ackBytes.set 11 0xA3)))).map (fun t => t.rsp.fields.map Record.source) =
      some (some 0x12345) ∧
    statusOf (exec (.getAck 28) (bufferOf (ackBytes.set 25 0x55))) = some .ok ∧
    statusOf (exec (.getAck 64) (bufferOf ackBytes)) = some .ok := by decide

theorem test_getAck_refuses :
    rspOf (exec (.getAck 24) (bufferOf ackBytes)) = parseError ∧
    rspOf (exec (.getAck 7) (bufferOf ackBytes)) = parseError ∧
    rspOf (exec (.getAck 28) (bufferOf (ackBytes.set 24 0xF0))) = parseError ∧
    rspOf (exec (.getAck 28) (bufferOf (ackBytes.set 7 0x7F))) = parseError ∧
    rspOf (exec (.getNak 28) (bufferOf (ackBytes.set 7 0x7F))) = parseError ∧
    rspOf (exec (.getAck 28) (bufferOf (ackBytes.set 2 0x7F))) = parseError := by decide

/-- A count that asks for bytes past `len` (positions 22, 23). -/
theorem test_getAck_count_past_len :
    rspOf (exec (.getAck 28) (bufferOf ((ackBytes.set 21 0xFF).set 20 0xFF))) = parseError := by decide

theorem test_getDiscovery_destination_not_checked :
    (nextOf (exec (.getDiscovery 32) (bufferOf ((((discoveryBytes.set 8 0).set 9 0).set 14 0).set 15 0)))).map
      (fun t => t.rsp.fields.map Record.destination) = some (some 0) := by decide

theorem test_getConfirmProtocolType_pattern_changed :
    (nextOf (exec (.getConfirmProtocolType 64) (bufferOf (confirmProtocolTypeBytes.set 26 0xAA)))).map
      (fun t => (t.rsp.status, t.rsp.count, t.rsp.fields.map Record.payload)) =
    some (some .ok, some 64, some [(.authorityLevel, .u8 0x10), (.testData, .pattern false)]) := by decide +kernel

theorem test_getNak_ignores_the_rest :
    rspOf (exec (.getNak 64) (bufferOf (nakBytes ++ .replicate 48 0x11))) = gotOk 16 (exRecord []) := by
  decide +kernel

/-! ## List boundaries: V5 -/

theorem test_putAck_lengths :
    [[], [0x41, 0x42, 0x43], [0x41, 0x42, 0x43, 0x44], [0x41, 0x42, 0x43, 0x44, 0x45, 0x46, 0x47]].map
      (fun message => (nextOf (exec (.putAck 64 exHeader 0x0ABCDEF1 0x34 0 0 (.replicate 5 0) message)
        State.reset)).map fun t => (t.rsp.count, t.mem.read 24, t.mem.read 28, t.mem.read 25)) =
    [some (some 28, 0xF7, 0x00, 0x00), some (some 28, 0xF7, 0x00, 0x43), some (some 32, 0x44, 0xF7, 0x43),
     some (some 32, 0x44, 0xF7, 0x43)] := by decide

theorem test_putProfileReply_lists :
    written 20 (exec (.putProfileReply 64 exHeader 0x0ABCDEF1 [] []) State.reset) = some (some 20,
      [0x0D, 0x7F, 0x7E, 0xF0, 0x01, 0x00, 0x01, 0x21, 0x3C, 0x7A, 0x45, 0x23, 0x00, 0x00, 0x71, 0x5E, 0xF7, 0x00,
       0x00, 0x00]) ∧
    written 24 (exec (.putProfileReply 64 exHeader 0x0ABCDEF1 [] [#v[0x7E, 0x00, 0x01, 0x01, 0x00]]) State.reset) =
      some (some 24,
        [0x0D, 0x7F, 0x7E, 0xF0, 0x01, 0x00, 0x01, 0x21, 0x3C, 0x7A, 0x45, 0x23, 0x00, 0x00, 0x71, 0x5E, 0x00, 0x7E,
         0x01, 0x00, 0xF7, 0x00, 0x01, 0x01]) := by decide

theorem test_putProfileSpecificData_empty :
    written 24 (exec (.putProfileSpecificData 64 { deviceId := 0, version := 0x7F, source := 0 } 0 (.replicate 5 0) [])
      State.reset) = some (some 24,
        [0x0D, 0x00, 0x7E, 0xF0, 0x00, 0x00, 0x7F, 0x2F, 0x00, 0x00, 0x00, 0x00, 0x00, 0x00, 0x00, 0x00, 0x00, 0x00,
         0x00, 0x00, 0xF7, 0x00, 0x00, 0x00]) := by decide

/-- V5: `BUF_CAP = len = 2048`. -/
def wideState : State := State.resetWith { val := 2048, lower := by decide, upper := by decide } []

theorem test_putInitiateProtocolNegotiation_256_records :
    rspOf (exec (.putInitiateProtocolNegotiation 2048 exHeader 0x0ABCDEF1 0x10 (.replicate 256 #v[1, 0, 0, 0, 0]))
      wideState) =
      some { status := some .overflowError, count := none, flag := none, muid := none, fields := none } := by
  decide +kernel

theorem test_putInitiateProtocolNegotiation_255_records :
    (rspOf (exec (.putInitiateProtocolNegotiation 2048 exHeader 0x0ABCDEF1 0x10
      (.replicate 255 #v[1, 0, 0, 0, 0])) wideState)).map Response.count = some (some 1292) := by decide +kernel

/-! ## MUID operations: V1, V2, P3 -/

theorem test_putMuid :
    [0x00000000, 0x00000001, 0x0000007F, 0x00000080, 0x000000FF, 0x00008000, 0x00800000, 0x01000000, 0x0F000000,
     0x00000064, 0x00012345, 0x0ABCDEF1, 0x0FFFFFFE, 0x0FFFFFFF].map
      (fun m => bytesAfter 4 (exec (.putMuid m) State.reset)) =
    [some [0x00, 0x00, 0x00, 0x00], some [0x01, 0x00, 0x00, 0x00], some [0x7F, 0x00, 0x00, 0x00],
     some [0x00, 0x00, 0x00, 0x10], some [0x7F, 0x00, 0x00, 0x10], some [0x00, 0x00, 0x00, 0x20],
     some [0x00, 0x00, 0x00, 0x40], some [0x00, 0x00, 0x00, 0x01], some [0x00, 0x00, 0x00, 0x0F],
     some [0x64, 0x00, 0x00, 0x00], some [0x45, 0x23, 0x01, 0x00], some [0x71, 0x5E, 0x3C, 0x7A],
     some [0x7E, 0x7F, 0x7F, 0x7F], some [0x7F, 0x7F, 0x7F, 0x7F]] := by decide

theorem test_putMuid_overflow :
    [0x10000000, 0xFFFFFFFF].map (fun m => (nextOf (exec (.putMuid m) (bufferOf [1, 2, 3, 4]))).map
      fun t => (t.rsp.status, t.faultMark, (List.range 4).map t.mem.read)) =
    [some (some .overflowError, true, [1, 2, 3, 4]), some (some .overflowError, true, [1, 2, 3, 4])] := by decide

theorem test_getMuid :
    [[0xFF, 0xFF, 0xFF, 0xFF], [0x80, 0x80, 0x80, 0x80], [0x7F, 0x00, 0x00, 0x0F], [0x00, 0x00, 0x00, 0x70],
     [0x00, 0x00, 0x00, 0x80], [0x45, 0x23, 0x01, 0x00], [0x71, 0x5E, 0x3C, 0x7A]].map
      (fun bytes => muidResultOf (exec .getMuid (bufferOf bytes))) =
    [some 0x0FFFFFFF, some 0x00000000, some 0x0F00007F, some 0x00808080, some 0x00000000, some 0x00012345,
     some 0x0ABCDEF1] := by decide

/-- V2: the addresses of the four bytes `7A 3C 5E 71`, in the order written. -/
theorem test_putMuidWithPosition :
    [(0, [3, 2, 1, 0]), (1, [2, 1, 0, 7]), (2, [1, 0, 7, 6]), (3, [0, 7, 6, 5]), (4, [7, 6, 5, 4]), (5, [6, 5, 4, 11]),
     (6, [5, 4, 11, 10]), (7, [4, 11, 10, 9]), (13, [14, 13, 12, 19]), (60, [63, 62, 61, 60])].all
      (fun (row : Word × List Nat) => decide (
        (nextOf (exec (.putMuidWithPosition row.1 0x0ABCDEF1) State.reset)).map (fun t => row.2.map t.mem.read) =
          some [0x7A, 0x3C, 0x5E, 0x71])) = true := by decide

theorem test_putMuidWithPosition_errors :
    [(61, 5), (62, 5), (63, 5), (0xFFFFFFFF, 5), (61, 0x10000000)].map
      (fun (row : Word × Word) => (nextOf (exec (.putMuidWithPosition row.1 row.2) State.reset)).map
        fun t => (t.rsp.status, t.faultMark, t.mem)) =
    [some (some .capacityError, true, []), some (some .capacityError, true, []), some (some .capacityError, true, []),
     some (some .capacityError, true, []), some (some .overflowError, true, [])] := by decide

/-- P3: the buffer as its end state lists it. -/
def p3Bytes : List Byte :=
  [0x00, 0x00, 0x00, 0x10, 0x01, 0x00, 0x00, 0x00, 0x00, 0x00, 0x45, 0x23, 0x7F, 0x7F, 0x7F, 0x00, 0x00, 0x00, 0x00,
   0x7F]

theorem test_getMuidWithPosition :
    [6, 13, 7, 0].map (fun pos => muidResultOf (exec (.getMuidWithPosition pos) (bufferOf p3Bytes))) =
      [some 0x00012345, some 0x0FFFFFFF, some 0x01234500, some 0x00000080] ∧
    statusOf (exec (.getMuidWithPosition 62) (bufferOf p3Bytes)) = some .capacityError := by decide

/-- R130: the draw is a free value, so only its place and its width are seen. -/
theorem test_generateMuid :
    ∃ d : BitVec 28, rspOf (exec .generateMuid State.reset) =
      some { status := some .ok, count := none, flag := none, muid := some (d.setWidth 32), fields := none } :=
  ⟨Config.draw 0, rfl⟩

/-! ## Errors: V6 -/

theorem test_putAck_errors :
    [(27, 0x0ABCDEF1), (65, 0x0ABCDEF1), (4, 0x10000000)].map
      (fun (row : Word × Word) => (nextOf (exec (.putAck row.1 exHeader row.2 0x34 0 0 (.replicate 5 0) [0x41, 0x42])
        State.reset)).map fun t => (t.rsp.status, t.faultMark, t.mem)) =
    [some (some .capacityError, true, []), some (some .capacityError, true, []),
     some (some .overflowError, true, [])] ∧
    markOf (exec (.putAck 28 exHeader 0x0ABCDEF1 0x34 0 0 (.replicate 5 0) [0x41, 0x42]) State.reset) =
      some false := by decide

theorem test_putInvalidateMuid_overflow :
    rspOf (exec (.putInvalidateMuid 64 { exHeader with source := 100 } 0x10000000) State.reset) =
      some { status := some .overflowError, count := none, flag := none, muid := none, fields := none } := by decide

theorem test_nak_len_over_capacity :
    statusOf (exec (.getNak 65) State.reset) = some .capacityError ∧
    statusOf (exec (.isNak 65) State.reset) = some .capacityError ∧
    markOf (exec (.isNak 65) State.reset) = some true := by decide

/-! ## Steps of the host: P2, P4, P5 -/

/-- A state with one step to serve. -/
def stepping (s : State) (h : HostStep) : State := { s with pending := [h] }

/-- V6: every illegal code ends with `ILLEGAL_REQUEST`, the mark set. -/
theorem test_step_illegal_requests :
    ([0x0000, 0x0022, 0x0180, 0x0305, 0x03FF, 0x0470, 0x8270, 0xFFFF] : List Half).all (fun op =>
      decide ((nextOf (step (stepping State.reset (.request (Request.ofCode op))))).map
        (fun t => (t.rsp.status, t.faultMark, t.mem)) = some (some .illegalRequest, true, []))) =
      true := by decide

/-- P2 step 8: a put over a received message leaves the bytes above it. -/
theorem test_step_put_keeps_the_rest :
    (nextOf (step (stepping (bufferOf (invalidateMuidBytes ++ .replicate 44 0x11))
      (.request (encode (.putAck 64 exHeader 0x00000064 0x7E 0x00 0x00 (.replicate 5 0) [])))))).map
      (fun t => (List.range 30).map t.mem.read) =
    some [0x0D, 0x7F, 0x7E, 0xF0, 0x01, 0x00, 0x01, 0x7D, 0x00, 0x00, 0x45, 0x23, 0x00, 0x7E, 0x64, 0x00, 0x00, 0x00,
      0x00, 0x00, 0x00, 0x00, 0x00, 0x00, 0xF7, 0x00, 0x00, 0x00, 0x11, 0x11] := by decide +kernel

/-- P4 step 1: a parse failure leaves the mark clear. -/
theorem test_parse_failure_leaves_the_mark :
    markOf (exec (.getDiscovery 16) (bufferOf (.replicate 64 0x22))) = some false ∧
    rspOf (exec (.getDiscovery 16) (bufferOf (.replicate 64 0x22))) = parseError := by decide +kernel

/-- P4 step 3: a success leaves the mark set. -/
theorem test_mark_is_sticky :
    (nextOf (exec (.putNak 16 exHeader 0x0ABCDEF1) (bufferOf (.replicate 64 0x22)).marked)).map
      (fun t => (t.rsp.status, t.faultMark, t.mem.read 16)) = some (some .ok, true, 0x22) := by decide +kernel

/-- P5: sixteen bytes classify and do not decode. -/
theorem test_classify_is_not_validate :
    flagOf (exec (.isDiscoveryReply 16) (bufferOf (discoveryReplyBytes.take 16))) = some true ∧
    rspOf (exec (.getDiscoveryReply 16) (bufferOf (discoveryReplyBytes.take 16))) = parseError := by decide

/-- P5 step 4: the host writes the other sixteen. -/
theorem test_host_write :
    bytesAfter 32 (step (stepping (bufferOf (discoveryReplyBytes.take 16))
      (.write 16 (discoveryReplyBytes.drop 16)))) = some discoveryReplyBytes := by decide

/-- R34: address 64 does not exist when `BUF_CAP = 64`. -/
theorem test_host_write_outside :
    step (stepping State.reset (.write 63 [1, 2])) = .fault .hostWriteOutsideBuffer := rfl

/-- R40: `count` holds no value after an `is_`. -/
theorem test_host_read :
    markOf (step (stepping { State.reset with rsp := Response.flagged true } (.read .count))) = some true ∧
    markOf (step (stepping { State.reset with rsp := Response.flagged true } (.read .flag))) = some false := by decide

/-- R550: with nothing to serve, the block waits. -/
theorem test_step_waits : step State.reset = .next State.reset := rfl

theorem test_withFetchWord :
    rspOf (step (State.reset.withFetchWord 16 0x007F)) =
      some { status := some .ok, count := none, flag := some false, muid := none, fields := none } ∧
    (nextOf (step (State.reset.withFetchWord 16 0x0305))).map (fun t => t.rsp.status) =
      some (some .illegalRequest) := by decide

/-! ## Positions and lengths: E9, V3 -/

theorem test_addrOf : (List.range 16).map addrOf = [3, 2, 1, 0, 7, 6, 5, 4, 11, 10, 9, 8, 15, 14, 13, 12] := by decide

theorem test_messageLength :
    [14, 15, 16, 17, 18, 19, 20, 23, 24, 27, 28, 63, 64].map messageLength =
      [16, 16, 20, 20, 20, 20, 24, 24, 28, 28, 32, 64, 68] := by decide

/-- R501. -/
theorem test_status_codes :
    [Status.ok, .parseError, .capacityError, .overflowError, .illegalRequest].map Status.code = [0, 1, 2, 3, 4] := by
  decide

/-- The canonical memory: a zero is not listed, a later write replaces an earlier one. -/
theorem test_memory_canonical :
    (((Memory.write [] 5 1).write 2 3).write 5 0).write 2 4 = [(2, 4)] := by decide

/-! ## Witnesses: for each statement with hypotheses, states and operands that meet them

`witness_<Name>` belongs to `Obligations.<Name>`; each clause is met at a boundary of its range. -/

/-- The hypotheses of the three clauses of `PutOutcome` at an example of length `L`, in the state after reset
(`BUF_CAP = 64`): `bad` is the range of operands one of which is out of range; `len = 65` is above the capacity,
`len = L - 1` is one short, `len = L` is just enough. -/
def PutHypothesesMet (good bad : Prop) (body : List Byte) (L : Nat) : Prop :=
  ¬ bad ∧ good ∧ State.reset.cap.val < (65 : Word).toNat ∧
  (BitVec.ofNat 32 (L - 1)).toNat < 4 * ((body.length + 4) / 4) ∧
  (BitVec.ofNat 32 L).toNat ≤ State.reset.cap.val ∧ 4 * ((body.length + 4) / 4) ≤ (BitVec.ofNat 32 L).toNat

/-- The hypotheses of the success clause of `GetOutcome` at an example, `len` being its length. -/
def GetHypothesesMet (valid : Prop) (wire bytes : List Byte) : Prop :=
  valid ∧ (BitVec.ofNat 32 bytes.length).toNat ≤ (bufferOf bytes).cap.val ∧
  MessageHeld (bufferOf bytes).mem (BitVec.ofNat 32 bytes.length).toNat wire

/-- The received header of the examples with a destination operand. -/
def exWire : WireHeader :=
  { deviceId := 0x7F, version := 0x01, source := #v[0x00, 0x01, 0x23, 0x45], destination := #v[0x7A, 0x3C, 0x5E, 0x71] }

/-- The received header of the examples of broadcast kinds. -/
def exWireBc : WireHeader :=
  { deviceId := 0x7F, version := 0x01, source := #v[0x00, 0x01, 0x23, 0x45], destination := #v[0x7F, 0x7F, 0x7F, 0x7F] }

theorem witness_ManagementPutsWriteTheMessage :
    PutHypothesesMet (exHeader.source.toNat < 2 ^ 28)
      (badSource.source.toNat < 2 ^ 28)
      (headerBytes 0x70 exHeader 0x0FFFFFFF ++ (#v[0x01, 0x00, 0x00] : Bytes 3).toList ++ bigEndian 2 (0x0100 :
        Half).toNat ++ bigEndian 2 (0x0001 : Half).toNat ++ (#v[0x01, 0x00, 0x00, 0x00] : Bytes 4).toList ++
        [(0x0F : Byte)] ++ bigEndian 4 (0x00000200 : Word).toNat) 32 ∧
    PutHypothesesMet (exHeader.source.toNat < 2 ^ 28 ∧ (0x0ABCDEF1 : Word).toNat < 2 ^ 28)
      (badSource.source.toNat < 2 ^ 28 ∧ (0x0ABCDEF1 : Word).toNat < 2 ^ 28)
      (headerBytes 0x71 exHeader (0x0ABCDEF1 : Word) ++ (#v[0x01, 0x00, 0x00] : Bytes 3).toList ++ bigEndian 2
        (0x0100 : Half).toNat ++ bigEndian 2 (0x0001 : Half).toNat ++ (#v[0x01, 0x00, 0x00, 0x00] : Bytes
        4).toList ++ [(0x0F : Byte)] ++ bigEndian 4 (0x00000200 : Word).toNat) 32 ∧
    PutHypothesesMet (exHeader.source.toNat < 2 ^ 28 ∧ (0x0FFFFFFF : Word).toNat < 2 ^ 28)
      (badSource.source.toNat < 2 ^ 28 ∧ (0x0FFFFFFF : Word).toNat < 2 ^ 28)
      (headerBytes 0x7E exHeader 0x0FFFFFFF ++ muidWire (0x0FFFFFFF : Word)) 20 ∧
    PutHypothesesMet (exHeader.source.toNat < 2 ^ 28 ∧ (0x0ABCDEF1 : Word).toNat < 2 ^ 28 ∧ ([0x41, 0x42] : List
      Byte).length < 2 ^ 16)
      (badSource.source.toNat < 2 ^ 28 ∧ (0x0ABCDEF1 : Word).toNat < 2 ^ 28 ∧ ([0x41, 0x42] : List Byte).length
        < 2 ^ 16)
      (headerBytes 0x7D exHeader (0x0ABCDEF1 : Word) ++ [(0x34 : Byte)] ++ [(0x00 : Byte)] ++ [(0x00 : Byte)] ++
        (#v[0x00, 0x00, 0x00, 0x00, 0x00] : Bytes 5).toList ++ bigEndian 2 ([0x41, 0x42] : List Byte).length ++
        ([0x41, 0x42] : List Byte)) 28 ∧
    PutHypothesesMet (exHeader.source.toNat < 2 ^ 28 ∧ (0x0ABCDEF1 : Word).toNat < 2 ^ 28)
      (badSource.source.toNat < 2 ^ 28 ∧ (0x0ABCDEF1 : Word).toNat < 2 ^ 28)
      (headerBytes 0x7F exHeader (0x0ABCDEF1 : Word)) 16 := by
  refine ⟨?_, ?_, ?_, ?_, ?_⟩ <;> unfold PutHypothesesMet <;> decide

theorem witness_ManagementGetsDecodeTheMessage :
    GetHypothesesMet (True)
      (exWireBc.bytes 0x70 ++ (#v[0x01, 0x00, 0x00] : Bytes 3).toList ++ bigEndian 2 (0x0100 : Half).toNat ++
        bigEndian 2 (0x0001 : Half).toNat ++ (#v[0x01, 0x00, 0x00, 0x00] : Bytes 4).toList ++ [(0x0F : Byte)] ++
        bigEndian 4 (0x00000200 : Word).toNat) discoveryBytes ∧
    GetHypothesesMet (True)
      (exWire.bytes 0x71 ++ (#v[0x01, 0x00, 0x00] : Bytes 3).toList ++ bigEndian 2 (0x0100 : Half).toNat ++
        bigEndian 2 (0x0001 : Half).toNat ++ (#v[0x01, 0x00, 0x00, 0x00] : Bytes 4).toList ++ [(0x0F : Byte)] ++
        bigEndian 4 (0x00000200 : Word).toNat) discoveryReplyBytes ∧
    GetHypothesesMet (True)
      (exWireBc.bytes 0x7E ++ (#v[0x7F, 0x7F, 0x7F, 0x7F] : Bytes 4).toList) invalidateMuidBytes ∧
    GetHypothesesMet (([0x41, 0x42] : List Byte).length < 2 ^ 16)
      (exWire.bytes 0x7D ++ [(0x34 : Byte)] ++ [(0x00 : Byte)] ++ [(0x00 : Byte)] ++ (#v[0x00, 0x00, 0x00, 0x00,
        0x00] : Bytes 5).toList ++ bigEndian 2 ([0x41, 0x42] : List Byte).length ++ ([0x41, 0x42] : List Byte))
        ackBytes ∧
    GetHypothesesMet (True)
      (exWire.bytes 0x7F) nakBytes := by
  refine ⟨?_, ?_, ?_, ?_, ?_⟩ <;> unfold GetHypothesesMet MessageHeld StreamBegins <;> decide +kernel

theorem witness_ProtocolPutsWriteTheMessage :
    PutHypothesesMet (exHeader.source.toNat < 2 ^ 28 ∧ (0x0ABCDEF1 : Word).toNat < 2 ^ 28 ∧ ([#v[0x01, 0x00,
      0x00, 0x00, 0x00], #v[0x02, 0x00, 0x00, 0x00, 0x00]] : List (Bytes 5)).length < 2 ^ 8)
      (badSource.source.toNat < 2 ^ 28 ∧ (0x0ABCDEF1 : Word).toNat < 2 ^ 28 ∧ ([#v[0x01, 0x00, 0x00, 0x00,
        0x00], #v[0x02, 0x00, 0x00, 0x00, 0x00]] : List (Bytes 5)).length < 2 ^ 8)
      (headerBytes 0x10 exHeader (0x0ABCDEF1 : Word) ++ [(0x10 : Byte)] ++ bigEndian 1 ([#v[0x01, 0x00, 0x00,
        0x00, 0x00], #v[0x02, 0x00, 0x00, 0x00, 0x00]] : List (Bytes 5)).length ++ (([#v[0x01, 0x00, 0x00, 0x00,
        0x00], #v[0x02, 0x00, 0x00, 0x00, 0x00]] : List (Bytes 5)).map Vector.toList).flatten) 28 ∧
    PutHypothesesMet (exHeader.source.toNat < 2 ^ 28 ∧ (0x0ABCDEF1 : Word).toNat < 2 ^ 28 ∧ ([#v[0x02, 0x00,
      0x00, 0x00, 0x00]] : List (Bytes 5)).length < 2 ^ 8)
      (badSource.source.toNat < 2 ^ 28 ∧ (0x0ABCDEF1 : Word).toNat < 2 ^ 28 ∧ ([#v[0x02, 0x00, 0x00, 0x00,
        0x00]] : List (Bytes 5)).length < 2 ^ 8)
      (headerBytes 0x11 exHeader (0x0ABCDEF1 : Word) ++ [(0x10 : Byte)] ++ bigEndian 1 ([#v[0x02, 0x00, 0x00,
        0x00, 0x00]] : List (Bytes 5)).length ++ (([#v[0x02, 0x00, 0x00, 0x00, 0x00]] : List (Bytes 5)).map
        Vector.toList).flatten) 24 ∧
    PutHypothesesMet (exHeader.source.toNat < 2 ^ 28 ∧ (0x0ABCDEF1 : Word).toNat < 2 ^ 28)
      (badSource.source.toNat < 2 ^ 28 ∧ (0x0ABCDEF1 : Word).toNat < 2 ^ 28)
      (headerBytes 0x12 exHeader (0x0ABCDEF1 : Word) ++ [(0x10 : Byte)] ++ (#v[0x02, 0x00, 0x00, 0x00, 0x00] :
        Bytes 5).toList) 24 ∧
    PutHypothesesMet (exHeader.source.toNat < 2 ^ 28 ∧ (0x0ABCDEF1 : Word).toNat < 2 ^ 28)
      (badSource.source.toNat < 2 ^ 28 ∧ (0x0ABCDEF1 : Word).toNat < 2 ^ 28)
      (headerBytes 0x13 exHeader (0x0ABCDEF1 : Word) ++ [(0x10 : Byte)] ++ (List.range 48).map (BitVec.ofNat 8))
        64 ∧
    PutHypothesesMet (exHeader.source.toNat < 2 ^ 28 ∧ (0x0ABCDEF1 : Word).toNat < 2 ^ 28)
      (badSource.source.toNat < 2 ^ 28 ∧ (0x0ABCDEF1 : Word).toNat < 2 ^ 28)
      (headerBytes 0x14 exHeader (0x0ABCDEF1 : Word) ++ [(0x10 : Byte)] ++ (List.range 48).map (BitVec.ofNat 8))
        64 ∧
    PutHypothesesMet (exHeader.source.toNat < 2 ^ 28 ∧ (0x0ABCDEF1 : Word).toNat < 2 ^ 28)
      (badSource.source.toNat < 2 ^ 28 ∧ (0x0ABCDEF1 : Word).toNat < 2 ^ 28)
      (headerBytes 0x15 exHeader (0x0ABCDEF1 : Word) ++ [(0x10 : Byte)]) 16 := by
  refine ⟨?_, ?_, ?_, ?_, ?_, ?_⟩ <;> unfold PutHypothesesMet <;> decide

theorem witness_ProtocolGetsDecodeTheMessage :
    GetHypothesesMet (([#v[0x01, 0x00, 0x00, 0x00, 0x00], #v[0x02, 0x00, 0x00, 0x00, 0x00]] : List (Bytes
      5)).length < 2 ^ 8)
      (exWire.bytes 0x10 ++ [(0x10 : Byte)] ++ bigEndian 1 ([#v[0x01, 0x00, 0x00, 0x00, 0x00], #v[0x02, 0x00,
        0x00, 0x00, 0x00]] : List (Bytes 5)).length ++ (([#v[0x01, 0x00, 0x00, 0x00, 0x00], #v[0x02, 0x00, 0x00,
        0x00, 0x00]] : List (Bytes 5)).map Vector.toList).flatten) initiateProtocolNegotiationBytes ∧
    GetHypothesesMet (([#v[0x02, 0x00, 0x00, 0x00, 0x00]] : List (Bytes 5)).length < 2 ^ 8)
      (exWire.bytes 0x11 ++ [(0x10 : Byte)] ++ bigEndian 1 ([#v[0x02, 0x00, 0x00, 0x00, 0x00]] : List (Bytes
        5)).length ++ (([#v[0x02, 0x00, 0x00, 0x00, 0x00]] : List (Bytes 5)).map Vector.toList).flatten)
        initiateProtocolNegotiationReplyBytes ∧
    GetHypothesesMet (True)
      (exWire.bytes 0x12 ++ [(0x10 : Byte)] ++ (#v[0x02, 0x00, 0x00, 0x00, 0x00] : Bytes 5).toList)
        setProtocolTypeBytes ∧
    GetHypothesesMet (True)
      (exWire.bytes 0x13 ++ [(0x10 : Byte)] ++ (List.range 48).map (BitVec.ofNat 8)) confirmProtocolTypeBytes ∧
    GetHypothesesMet (True)
      (exWire.bytes 0x14 ++ [(0x10 : Byte)] ++ (List.range 48).map (BitVec.ofNat 8))
        confirmProtocolTypeReplyBytes ∧
    GetHypothesesMet (True)
      (exWire.bytes 0x15 ++ [(0x10 : Byte)]) confirmProtocolTypeEstablishedBytes := by
  refine ⟨?_, ?_, ?_, ?_, ?_, ?_⟩ <;> unfold GetHypothesesMet MessageHeld StreamBegins <;> decide +kernel

theorem witness_ProfilePutsWriteTheMessage :
    PutHypothesesMet (exHeader.source.toNat < 2 ^ 28 ∧ (0x0ABCDEF1 : Word).toNat < 2 ^ 28)
      (badSource.source.toNat < 2 ^ 28 ∧ (0x0ABCDEF1 : Word).toNat < 2 ^ 28)
      (headerBytes 0x20 exHeader (0x0ABCDEF1 : Word)) 16 ∧
    PutHypothesesMet (exHeader.source.toNat < 2 ^ 28 ∧ (0x0ABCDEF1 : Word).toNat < 2 ^ 28 ∧ ([#v[0x7E, 0x00,
      0x01, 0x01, 0x00]] : List (Bytes 5)).length < 2 ^ 16 ∧ ([] : List (Bytes 5)).length < 2 ^ 16)
      (badSource.source.toNat < 2 ^ 28 ∧ (0x0ABCDEF1 : Word).toNat < 2 ^ 28 ∧ ([#v[0x7E, 0x00, 0x01, 0x01,
        0x00]] : List (Bytes 5)).length < 2 ^ 16 ∧ ([] : List (Bytes 5)).length < 2 ^ 16)
      (headerBytes 0x21 exHeader (0x0ABCDEF1 : Word) ++ bigEndian 2 ([#v[0x7E, 0x00, 0x01, 0x01, 0x00]] : List
        (Bytes 5)).length ++ (([#v[0x7E, 0x00, 0x01, 0x01, 0x00]] : List (Bytes 5)).map Vector.toList).flatten
        ++ bigEndian 2 ([] : List (Bytes 5)).length ++ (([] : List (Bytes 5)).map Vector.toList).flatten) 24 ∧
    PutHypothesesMet (exHeader.source.toNat < 2 ^ 28)
      (badSource.source.toNat < 2 ^ 28)
      (headerBytes 0x24 exHeader 0x0FFFFFFF ++ (#v[0x7E, 0x00, 0x01, 0x01, 0x00] : Bytes 5).toList ++ bigEndian
        2 (0x0001 : Half).toNat) 24 ∧
    PutHypothesesMet (exHeader.source.toNat < 2 ^ 28)
      (badSource.source.toNat < 2 ^ 28)
      (headerBytes 0x25 exHeader 0x0FFFFFFF ++ (#v[0x7E, 0x00, 0x01, 0x01, 0x00] : Bytes 5).toList ++ bigEndian
        2 (0x0001 : Half).toNat) 24 ∧
    PutHypothesesMet (exHeader.source.toNat < 2 ^ 28)
      (badSource.source.toNat < 2 ^ 28)
      (headerBytes 0x26 exHeader 0x0FFFFFFF ++ (#v[0x7E, 0x00, 0x01, 0x01, 0x00] : Bytes 5).toList) 20 ∧
    PutHypothesesMet (exHeader.source.toNat < 2 ^ 28)
      (badSource.source.toNat < 2 ^ 28)
      (headerBytes 0x27 exHeader 0x0FFFFFFF ++ (#v[0x7E, 0x00, 0x01, 0x01, 0x00] : Bytes 5).toList) 20 ∧
    PutHypothesesMet (exHeader.source.toNat < 2 ^ 28 ∧ (0x0ABCDEF1 : Word).toNat < 2 ^ 28 ∧ ([0x01, 0x02, 0x03]
      : List Byte).length < 2 ^ 32)
      (badSource.source.toNat < 2 ^ 28 ∧ (0x0ABCDEF1 : Word).toNat < 2 ^ 28 ∧ ([0x01, 0x02, 0x03] : List
        Byte).length < 2 ^ 32)
      (headerBytes 0x2F exHeader (0x0ABCDEF1 : Word) ++ (#v[0x7E, 0x00, 0x01, 0x01, 0x00] : Bytes 5).toList ++
        bigEndian 4 ([0x01, 0x02, 0x03] : List Byte).length ++ ([0x01, 0x02, 0x03] : List Byte)) 28 := by
  refine ⟨?_, ?_, ?_, ?_, ?_, ?_, ?_⟩ <;> unfold PutHypothesesMet <;> decide

theorem witness_ProfileGetsDecodeTheMessage :
    GetHypothesesMet (True)
      (exWire.bytes 0x20) profileBytes ∧
    GetHypothesesMet (([#v[0x7E, 0x00, 0x01, 0x01, 0x00]] : List (Bytes 5)).length < 2 ^ 16 ∧ ([] : List (Bytes
      5)).length < 2 ^ 16)
      (exWire.bytes 0x21 ++ bigEndian 2 ([#v[0x7E, 0x00, 0x01, 0x01, 0x00]] : List (Bytes 5)).length ++
        (([#v[0x7E, 0x00, 0x01, 0x01, 0x00]] : List (Bytes 5)).map Vector.toList).flatten ++ bigEndian 2 ([] :
        List (Bytes 5)).length ++ (([] : List (Bytes 5)).map Vector.toList).flatten) profileReplyBytes ∧
    GetHypothesesMet (True)
      (exWireBc.bytes 0x24 ++ (#v[0x7E, 0x00, 0x01, 0x01, 0x00] : Bytes 5).toList ++ bigEndian 2 (0x0001 :
        Half).toNat) profileEnabledReportBytes ∧
    GetHypothesesMet (True)
      (exWireBc.bytes 0x25 ++ (#v[0x7E, 0x00, 0x01, 0x01, 0x00] : Bytes 5).toList ++ bigEndian 2 (0x0001 :
        Half).toNat) profileDisabledReportBytes ∧
    GetHypothesesMet (True)
      (exWireBc.bytes 0x26 ++ (#v[0x7E, 0x00, 0x01, 0x01, 0x00] : Bytes 5).toList) profileAddedBytes ∧
    GetHypothesesMet (True)
      (exWireBc.bytes 0x27 ++ (#v[0x7E, 0x00, 0x01, 0x01, 0x00] : Bytes 5).toList) profileRemovedBytes ∧
    GetHypothesesMet (([0x01, 0x02, 0x03] : List Byte).length < 2 ^ 32)
      (exWire.bytes 0x2F ++ (#v[0x7E, 0x00, 0x01, 0x01, 0x00] : Bytes 5).toList ++ bigEndian 4 ([0x01, 0x02,
        0x03] : List Byte).length ++ ([0x01, 0x02, 0x03] : List Byte)) profileSpecificDataBytes := by
  refine ⟨?_, ?_, ?_, ?_, ?_, ?_, ?_⟩ <;> unfold GetHypothesesMet MessageHeld StreamBegins <;> decide +kernel

theorem witness_PropertyExchangePutsWriteTheMessage :
    PutHypothesesMet (exHeader.source.toNat < 2 ^ 28 ∧ (0x0ABCDEF1 : Word).toNat < 2 ^ 28)
      (badSource.source.toNat < 2 ^ 28 ∧ (0x0ABCDEF1 : Word).toNat < 2 ^ 28)
      (headerBytes 0x30 exHeader (0x0ABCDEF1 : Word) ++ [(0x01 : Byte)] ++ [(0x00 : Byte)] ++ [(0x01 : Byte)])
        20 ∧
    PutHypothesesMet (exHeader.source.toNat < 2 ^ 28 ∧ (0x0ABCDEF1 : Word).toNat < 2 ^ 28)
      (badSource.source.toNat < 2 ^ 28 ∧ (0x0ABCDEF1 : Word).toNat < 2 ^ 28)
      (headerBytes 0x31 exHeader (0x0ABCDEF1 : Word) ++ [(0x01 : Byte)] ++ [(0x00 : Byte)] ++ [(0x01 : Byte)])
        20 ∧
    PutHypothesesMet (exHeader.source.toNat < 2 ^ 28 ∧ (0x0ABCDEF1 : Word).toNat < 2 ^ 28 ∧ ([0x7B, 0x7D] : List
      Byte).length < 2 ^ 16 ∧ ([] : List Byte).length < 2 ^ 16)
      (badSource.source.toNat < 2 ^ 28 ∧ (0x0ABCDEF1 : Word).toNat < 2 ^ 28 ∧ ([0x7B, 0x7D] : List Byte).length
        < 2 ^ 16 ∧ ([] : List Byte).length < 2 ^ 16)
      (headerBytes 0x34 exHeader (0x0ABCDEF1 : Word) ++ [(0x01 : Byte)] ++ bigEndian 2 ([0x7B, 0x7D] : List
        Byte).length ++ ([0x7B, 0x7D] : List Byte) ++ bigEndian 2 (0x0001 : Half).toNat ++ bigEndian 2 (0x0001 :
        Half).toNat ++ bigEndian 2 ([] : List Byte).length ++ ([] : List Byte)) 28 ∧
    PutHypothesesMet (exHeader.source.toNat < 2 ^ 28 ∧ (0x0ABCDEF1 : Word).toNat < 2 ^ 28 ∧ ([0x7B, 0x7D] : List
      Byte).length < 2 ^ 16 ∧ ([] : List Byte).length < 2 ^ 16)
      (badSource.source.toNat < 2 ^ 28 ∧ (0x0ABCDEF1 : Word).toNat < 2 ^ 28 ∧ ([0x7B, 0x7D] : List Byte).length
        < 2 ^ 16 ∧ ([] : List Byte).length < 2 ^ 16)
      (headerBytes 0x35 exHeader (0x0ABCDEF1 : Word) ++ [(0x01 : Byte)] ++ bigEndian 2 ([0x7B, 0x7D] : List
        Byte).length ++ ([0x7B, 0x7D] : List Byte) ++ bigEndian 2 (0x0001 : Half).toNat ++ bigEndian 2 (0x0001 :
        Half).toNat ++ bigEndian 2 ([] : List Byte).length ++ ([] : List Byte)) 28 ∧
    PutHypothesesMet (exHeader.source.toNat < 2 ^ 28 ∧ (0x0ABCDEF1 : Word).toNat < 2 ^ 28 ∧ ([0x7B, 0x7D] : List
      Byte).length < 2 ^ 16 ∧ ([] : List Byte).length < 2 ^ 16)
      (badSource.source.toNat < 2 ^ 28 ∧ (0x0ABCDEF1 : Word).toNat < 2 ^ 28 ∧ ([0x7B, 0x7D] : List Byte).length
        < 2 ^ 16 ∧ ([] : List Byte).length < 2 ^ 16)
      (headerBytes 0x36 exHeader (0x0ABCDEF1 : Word) ++ [(0x01 : Byte)] ++ bigEndian 2 ([0x7B, 0x7D] : List
        Byte).length ++ ([0x7B, 0x7D] : List Byte) ++ bigEndian 2 (0x0001 : Half).toNat ++ bigEndian 2 (0x0001 :
        Half).toNat ++ bigEndian 2 ([] : List Byte).length ++ ([] : List Byte)) 28 ∧
    PutHypothesesMet (exHeader.source.toNat < 2 ^ 28 ∧ (0x0ABCDEF1 : Word).toNat < 2 ^ 28 ∧ ([0x7B, 0x7D] : List
      Byte).length < 2 ^ 16 ∧ ([] : List Byte).length < 2 ^ 16)
      (badSource.source.toNat < 2 ^ 28 ∧ (0x0ABCDEF1 : Word).toNat < 2 ^ 28 ∧ ([0x7B, 0x7D] : List Byte).length
        < 2 ^ 16 ∧ ([] : List Byte).length < 2 ^ 16)
      (headerBytes 0x37 exHeader (0x0ABCDEF1 : Word) ++ [(0x01 : Byte)] ++ bigEndian 2 ([0x7B, 0x7D] : List
        Byte).length ++ ([0x7B, 0x7D] : List Byte) ++ bigEndian 2 (0x0001 : Half).toNat ++ bigEndian 2 (0x0001 :
        Half).toNat ++ bigEndian 2 ([] : List Byte).length ++ ([] : List Byte)) 28 ∧
    PutHypothesesMet (exHeader.source.toNat < 2 ^ 28 ∧ (0x0ABCDEF1 : Word).toNat < 2 ^ 28 ∧ ([0x7B, 0x7D] : List
      Byte).length < 2 ^ 16 ∧ ([] : List Byte).length < 2 ^ 16)
      (badSource.source.toNat < 2 ^ 28 ∧ (0x0ABCDEF1 : Word).toNat < 2 ^ 28 ∧ ([0x7B, 0x7D] : List Byte).length
        < 2 ^ 16 ∧ ([] : List Byte).length < 2 ^ 16)
      (headerBytes 0x38 exHeader (0x0ABCDEF1 : Word) ++ [(0x01 : Byte)] ++ bigEndian 2 ([0x7B, 0x7D] : List
        Byte).length ++ ([0x7B, 0x7D] : List Byte) ++ bigEndian 2 (0x0001 : Half).toNat ++ bigEndian 2 (0x0001 :
        Half).toNat ++ bigEndian 2 ([] : List Byte).length ++ ([] : List Byte)) 28 ∧
    PutHypothesesMet (exHeader.source.toNat < 2 ^ 28 ∧ (0x0ABCDEF1 : Word).toNat < 2 ^ 28 ∧ ([0x7B, 0x7D] : List
      Byte).length < 2 ^ 16 ∧ ([] : List Byte).length < 2 ^ 16)
      (badSource.source.toNat < 2 ^ 28 ∧ (0x0ABCDEF1 : Word).toNat < 2 ^ 28 ∧ ([0x7B, 0x7D] : List Byte).length
        < 2 ^ 16 ∧ ([] : List Byte).length < 2 ^ 16)
      (headerBytes 0x39 exHeader (0x0ABCDEF1 : Word) ++ [(0x01 : Byte)] ++ bigEndian 2 ([0x7B, 0x7D] : List
        Byte).length ++ ([0x7B, 0x7D] : List Byte) ++ bigEndian 2 (0x0001 : Half).toNat ++ bigEndian 2 (0x0001 :
        Half).toNat ++ bigEndian 2 ([] : List Byte).length ++ ([] : List Byte)) 28 := by
  refine ⟨?_, ?_, ?_, ?_, ?_, ?_, ?_, ?_⟩ <;> unfold PutHypothesesMet <;> decide

theorem witness_PropertyExchangeGetsDecodeTheMessage :
    GetHypothesesMet (True)
      (exWire.bytes 0x30 ++ [(0x01 : Byte)] ++ [(0x00 : Byte)] ++ [(0x01 : Byte)])
        propertyExchangeCapabilitiesBytes ∧
    GetHypothesesMet (True)
      (exWire.bytes 0x31 ++ [(0x01 : Byte)] ++ [(0x00 : Byte)] ++ [(0x01 : Byte)])
        propertyExchangeCapabilitiesReplyBytes ∧
    GetHypothesesMet (([0x7B, 0x7D] : List Byte).length < 2 ^ 16 ∧ ([] : List Byte).length < 2 ^ 16)
      (exWire.bytes 0x34 ++ [(0x01 : Byte)] ++ bigEndian 2 ([0x7B, 0x7D] : List Byte).length ++ ([0x7B, 0x7D] :
        List Byte) ++ bigEndian 2 (0x0001 : Half).toNat ++ bigEndian 2 (0x0001 : Half).toNat ++ bigEndian 2 ([]
        : List Byte).length ++ ([] : List Byte)) getPropertyDataBytes ∧
    GetHypothesesMet (([0x7B, 0x7D] : List Byte).length < 2 ^ 16 ∧ ([] : List Byte).length < 2 ^ 16)
      (exWire.bytes 0x35 ++ [(0x01 : Byte)] ++ bigEndian 2 ([0x7B, 0x7D] : List Byte).length ++ ([0x7B, 0x7D] :
        List Byte) ++ bigEndian 2 (0x0001 : Half).toNat ++ bigEndian 2 (0x0001 : Half).toNat ++ bigEndian 2 ([]
        : List Byte).length ++ ([] : List Byte)) getPropertyDataReplyBytes ∧
    GetHypothesesMet (([0x7B, 0x7D] : List Byte).length < 2 ^ 16 ∧ ([] : List Byte).length < 2 ^ 16)
      (exWire.bytes 0x36 ++ [(0x01 : Byte)] ++ bigEndian 2 ([0x7B, 0x7D] : List Byte).length ++ ([0x7B, 0x7D] :
        List Byte) ++ bigEndian 2 (0x0001 : Half).toNat ++ bigEndian 2 (0x0001 : Half).toNat ++ bigEndian 2 ([]
        : List Byte).length ++ ([] : List Byte)) setPropertyDataBytes ∧
    GetHypothesesMet (([0x7B, 0x7D] : List Byte).length < 2 ^ 16 ∧ ([] : List Byte).length < 2 ^ 16)
      (exWire.bytes 0x37 ++ [(0x01 : Byte)] ++ bigEndian 2 ([0x7B, 0x7D] : List Byte).length ++ ([0x7B, 0x7D] :
        List Byte) ++ bigEndian 2 (0x0001 : Half).toNat ++ bigEndian 2 (0x0001 : Half).toNat ++ bigEndian 2 ([]
        : List Byte).length ++ ([] : List Byte)) setPropertyDataReplyBytes ∧
    GetHypothesesMet (([0x7B, 0x7D] : List Byte).length < 2 ^ 16 ∧ ([] : List Byte).length < 2 ^ 16)
      (exWire.bytes 0x38 ++ [(0x01 : Byte)] ++ bigEndian 2 ([0x7B, 0x7D] : List Byte).length ++ ([0x7B, 0x7D] :
        List Byte) ++ bigEndian 2 (0x0001 : Half).toNat ++ bigEndian 2 (0x0001 : Half).toNat ++ bigEndian 2 ([]
        : List Byte).length ++ ([] : List Byte)) subscriptionBytes ∧
    GetHypothesesMet (([0x7B, 0x7D] : List Byte).length < 2 ^ 16 ∧ ([] : List Byte).length < 2 ^ 16)
      (exWire.bytes 0x39 ++ [(0x01 : Byte)] ++ bigEndian 2 ([0x7B, 0x7D] : List Byte).length ++ ([0x7B, 0x7D] :
        List Byte) ++ bigEndian 2 (0x0001 : Half).toNat ++ bigEndian 2 (0x0001 : Half).toNat ++ bigEndian 2 ([]
        : List Byte).length ++ ([] : List Byte)) subscriptionReplyBytes := by
  refine ⟨?_, ?_, ?_, ?_, ?_, ?_, ?_, ?_⟩ <;> unfold GetHypothesesMet MessageHeld StreamBegins <;> decide +kernel

theorem witness_ProcessInquiryPutsWriteTheMessage :
    PutHypothesesMet (exHeader.source.toNat < 2 ^ 28 ∧ (0x0ABCDEF1 : Word).toNat < 2 ^ 28)
      (badSource.source.toNat < 2 ^ 28 ∧ (0x0ABCDEF1 : Word).toNat < 2 ^ 28)
      (headerBytes 0x40 exHeader (0x0ABCDEF1 : Word)) 16 ∧
    PutHypothesesMet (exHeader.source.toNat < 2 ^ 28 ∧ (0x0ABCDEF1 : Word).toNat < 2 ^ 28)
      (badSource.source.toNat < 2 ^ 28 ∧ (0x0ABCDEF1 : Word).toNat < 2 ^ 28)
      (headerBytes 0x41 exHeader (0x0ABCDEF1 : Word) ++ [(0x01 : Byte)]) 16 ∧
    PutHypothesesMet (exHeader.source.toNat < 2 ^ 28 ∧ (0x0ABCDEF1 : Word).toNat < 2 ^ 28)
      (badSource.source.toNat < 2 ^ 28 ∧ (0x0ABCDEF1 : Word).toNat < 2 ^ 28)
      (headerBytes 0x42 exHeader (0x0ABCDEF1 : Word) ++ [(0x01 : Byte)] ++ [(0x01 : Byte)] ++ [(0x02 : Byte)] ++
        [(0x03 : Byte)] ++ [(0x04 : Byte)]) 20 ∧
    PutHypothesesMet (exHeader.source.toNat < 2 ^ 28 ∧ (0x0ABCDEF1 : Word).toNat < 2 ^ 28)
      (badSource.source.toNat < 2 ^ 28 ∧ (0x0ABCDEF1 : Word).toNat < 2 ^ 28)
      (headerBytes 0x43 exHeader (0x0ABCDEF1 : Word) ++ [(0x01 : Byte)] ++ [(0x02 : Byte)] ++ [(0x03 : Byte)] ++
        [(0x04 : Byte)]) 20 ∧
    PutHypothesesMet (exHeader.source.toNat < 2 ^ 28 ∧ (0x0ABCDEF1 : Word).toNat < 2 ^ 28)
      (badSource.source.toNat < 2 ^ 28 ∧ (0x0ABCDEF1 : Word).toNat < 2 ^ 28)
      (headerBytes 0x44 exHeader (0x0ABCDEF1 : Word)) 16 := by
  refine ⟨?_, ?_, ?_, ?_, ?_⟩ <;> unfold PutHypothesesMet <;> decide

theorem witness_ProcessInquiryGetsDecodeTheMessage :
    GetHypothesesMet (True)
      (exWire.bytes 0x40) processCapabilitiesBytes ∧
    GetHypothesesMet (True)
      (exWire.bytes 0x41 ++ [(0x01 : Byte)]) processCapabilitiesReplyBytes ∧
    GetHypothesesMet (True)
      (exWire.bytes 0x42 ++ [(0x01 : Byte)] ++ [(0x01 : Byte)] ++ [(0x02 : Byte)] ++ [(0x03 : Byte)] ++ [(0x04 :
        Byte)]) messageReportBytes ∧
    GetHypothesesMet (True)
      (exWire.bytes 0x43 ++ [(0x01 : Byte)] ++ [(0x02 : Byte)] ++ [(0x03 : Byte)] ++ [(0x04 : Byte)])
        messageReportReplyBytes ∧
    GetHypothesesMet (True)
      (exWire.bytes 0x44) endOfMessageReportBytes := by
  refine ⟨?_, ?_, ?_, ?_, ?_⟩ <;> unfold GetHypothesesMet MessageHeld StreamBegins <;> decide +kernel

/-- The two other clauses of `GetOutcome`, for all 31 kinds: `len = 65` is above the capacity; an empty buffer holds
no message, since every message begins with `0xF0`. -/
theorem witness_gets_without_a_message (body : List Byte) (h : body[0]? = some 0xF0) :
    State.reset.cap.val < (65 : Word).toNat ∧ (64 : Word).toNat ≤ State.reset.cap.val ∧
    ¬ MessageHeld State.reset.mem (64 : Word).toNat body := by
  refine ⟨by decide, by decide, fun hm => ?_⟩
  obtain ⟨hl, hb⟩ := List.getElem?_eq_some_iff.1 h
  have := hm.1 0 hl
  rw [hb] at this
  exact absurd this (by decide)

/-- A range of a list count can be left, at each width. -/
theorem witness_puts_with_a_long_list (n : Nat) :
    ∃ l : List Byte, ∃ rs : List (Bytes 5), l.length = n ∧ rs.length = n :=
  ⟨.replicate n 0, .replicate n (.replicate 5 0), List.length_replicate, List.length_replicate⟩

/-- The hypotheses of `IsRule` at an example: `len` of 65, 64 and 8, and a predicate that answers 1. -/
def IsHypothesesMet (ex : Kind × List Byte) : Bool :=
  decide (State.reset.cap.val < (65 : Word).toNat ∧ (64 : Word).toNat ≤ State.reset.cap.val) &&
  decide (flagOf (exec (isOf 64 ex.1) (bufferOf ex.2)) = some true) &&
  decide (flagOf (exec (isOf 8 ex.1) (bufferOf ex.2)) = some true)

theorem witness_ManagementPredicatesMatchTheHeader :
    ((examples.take 5).all IsHypothesesMet) = true := by decide +kernel

theorem witness_ProtocolPredicatesMatchTheHeader :
    (((examples.drop 5).take 6).all IsHypothesesMet) = true := by decide +kernel

theorem witness_ProfilePredicatesMatchTheHeader :
    (((examples.drop 11).take 7).all IsHypothesesMet) = true := by decide +kernel

theorem witness_PropertyExchangePredicatesMatchTheHeader :
    (((examples.drop 18).take 8).all IsHypothesesMet) = true := by decide +kernel

theorem witness_ProcessInquiryPredicatesMatchTheHeader :
    ((examples.drop 26).all IsHypothesesMet) = true := by decide +kernel

/-- The request `is_nak len=16`. -/
def isNakRequest : Request := { Request.ofCode 0x007F with len := 16 }

/-- The state of the `nak` example with a request pending. -/
def nakPending (r : Request) : State := stepping (bufferOf nakBytes) (.request r)

theorem witness_StepServesTheDecodedRequest :
    (nakPending isNakRequest).pending = .request isNakRequest :: [] ∧ decode isNakRequest = .ok (.isNak 16) ∧
    statusOf (step (nakPending isNakRequest)) = some .ok := by decide

theorem witness_IllegalCodeRaisesIllegalRequest :
    (nakPending (Request.ofCode 0x0022)).pending = .request (Request.ofCode 0x0022) :: [] ∧
    ¬ LegalCode 0x0022 ∧ ¬ LegalCode 0x0305 ∧ ¬ LegalCode 0x0400 ∧ LegalCode 0x0304 ∧ LegalCode 0x0144 ∧
    LegalCode isNakRequest.op ∧ ∃ t, step (nakPending isNakRequest) = .next t := by
  refine ⟨rfl, by unfold LegalCode; decide, by unfold LegalCode; decide, by unfold LegalCode; decide,
    by unfold LegalCode; decide, by unfold LegalCode; decide, by unfold LegalCode; decide, ?_⟩
  obtain ⟨t, ht, -⟩ := exists_of_statusOf witness_StepServesTheDecodedRequest.2.2
  exact ⟨t, ht⟩

theorem witness_RequestDecodingIsTotal :
    (nakPending (Request.ofCode 0x03FF)).pending = .request (Request.ofCode 0x03FF) :: [] ∧ ¬ LegalCode 0x03FF ∧
    ¬ LegalCode 0xFFFF := by
  refine ⟨rfl, ?_, ?_⟩ <;> unfold LegalCode <;> decide

theorem witness_EncodeOfDecodeHasTheSameCode :
    decode { Request.ofCode 0x0304 with pos := 60 } = .ok (.getMuidWithPosition 60) ∧
    decode isNakRequest = .ok (.isNak 16) := by decide

theorem witness_ReservedSubIdsBelongToNoKind :
    (0x22 : Byte) ∉ subIdValues ∧ (bufferOf reservedBytes).mem.read 7 = 0x22 ∧
    (64 : Word).toNat ≤ (bufferOf reservedBytes).cap.val ∧ (0x00 : Byte) ∉ subIdValues ∧
    (0xFF : Byte) ∉ subIdValues := by decide

theorem witness_SubIdSpaceIsAPartition :
    (bufferOf nakBytes).mem = (bufferOf nakBytes).marked.mem ∧
    flagOf (exec (isOf 16 .nak) (bufferOf nakBytes)) = some true ∧
    flagOf (exec (isOf 8 .nak) (bufferOf nakBytes).marked) = some true := by decide

theorem witness_PutMuidWritesTheFirstGroup :
    2 ^ 28 ≤ (0x10000000 : Word).toNat ∧ (0x0FFFFFFF : Word).toNat < 2 ^ 28 ∧ (0x12345 : Word).toNat < 2 ^ 28 := by
  decide

theorem witness_GetMuidReadsTheFirstGroup :
    (∀ b ∈ [(0xFF : Byte), 0x7F], ∀ a < 4, (bufferOf (.replicate 4 b)).mem.read a = b) ∧
    (0x0FFFFFFF : Word).toNat < 2 ^ 28 ∧ ∃ t, exec (.putMuid 0x0FFFFFFF) State.reset = .next t := by
  refine ⟨by decide, by decide, ?_⟩
  obtain ⟨t, ht, -⟩ := exists_of_statusOf (o := exec (.putMuid 0x0FFFFFFF) State.reset) (st := .ok) (by decide)
  exact ⟨t, ht⟩

theorem witness_PutMuidWithPositionWritesFourPositions :
    2 ^ 28 ≤ (0x10000000 : Word).toNat ∧ (0x0FFFFFFF : Word).toNat < 2 ^ 28 ∧ (0x12345 : Word).toNat < 2 ^ 28 ∧
    (∃ i < 4, State.reset.cap.val ≤ 4 * (((61 : Word).toNat + i) / 4) + (3 - ((61 : Word).toNat + i) % 4)) ∧
    (∀ i < 4, 4 * (((60 : Word).toNat + i) / 4) + (3 - ((60 : Word).toNat + i) % 4) < State.reset.cap.val) ∧
    (∀ i < 4, 4 * (((6 : Word).toNat + i) / 4) + (3 - ((6 : Word).toNat + i) % 4) < State.reset.cap.val) := by
  decide

theorem witness_GetMuidWithPositionReadsFourPositions :
    (∃ i < 4, State.reset.cap.val ≤ 4 * (((61 : Word).toNat + i) / 4) + (3 - ((61 : Word).toNat + i) % 4)) ∧
    (∀ i < 4, 4 * (((60 : Word).toNat + i) / 4) + (3 - ((60 : Word).toNat + i) % 4) < State.reset.cap.val) ∧
    ∃ t, exec (.putMuidWithPosition 60 5) State.reset = .next t ∧ t.rsp.status = some .ok :=
  ⟨by decide, by decide, exists_of_statusOf (by decide)⟩

theorem witness_MuidWireBits : (0x0FFFFFFF : Word).toNat < 2 ^ 28 ∧ (0x00808080 : Word).toNat < 2 ^ 28 := by decide

theorem witness_MuidFromBits : (0x0FFFFFFF : Word).toNat < 2 ^ 28 := by decide

theorem witness_MuidPackingLaws :
    (0x0FFFFFFF : Word).toNat < 2 ^ 28 ∧ muidWire 0x0FFFFFFF = muidWire 0x0FFFFFFF ∧
    (∀ b ∈ [(0x7F : Byte), 0x00, 0x00, 0x0F, 0x7F, 0x00, 0x00, 0x0F], b.toNat < 0x80) ∧
    muidFrom 0x7F 0x00 0x00 0x0F = muidFrom 0x7F 0x00 0x00 0x0F := by decide

theorem witness_PositionMapReversesEachGroup : 3 < 4 ∧ 63 < 4 * 16 ∧ addrOf 60 = 63 := by decide

theorem witness_FieldTypesOnTheWire : ∀ r ∈ [[(1 : Byte), 2], [3, 4]], r.length = 2 := by decide

/-- A reader of stream positions over a list. -/
def readerOf (bs : List Byte) (p : Nat) : Option Byte := bs[p]?

theorem witness_IntegersAndListsDecode :
    readerOf [0x12, 0x34, 0x56, 0x78] 0 = some 0x12 ∧ readerOf [0x12, 0x34, 0x56, 0x78] 1 = some 0x34 ∧
    readerOf [0x12, 0x34, 0x56, 0x78] 2 = some 0x56 ∧ readerOf [0x12, 0x34, 0x56, 0x78] 3 = some 0x78 ∧
    ((∀ r ∈ [[(7 : Byte), 8], [9, 10]], r.length = 2) ∧ 2 < 2 ^ countBits .w16 ∧
      ∀ j (h : j < (bigEndian (countBits .w16 / 8) 2 ++ [[(7 : Byte), 8], [9, 10]].flatten).length),
        readerOf [0x00, 0x02, 7, 8, 9, 10] (0 + j) =
          some (bigEndian (countBits .w16 / 8) 2 ++ [[(7 : Byte), 8], [9, 10]].flatten)[j]) ∧
    (parseField (readerOf [0x01, 7, 8]) 0 (.list .w8 2) = some (.records .w8 [[7, 8]], 3)) ∧
    (parseField (readerOf [0x00, 0x00]) 0 (.list .w16 1) = some (.records .w16 [], 2)) ∧
    (parseField (readerOf [0x00, 0x00, 0x00, 0x01, 7]) 0 (.list .w32 1) = some (.records .w32 [[7]], 5)) := by
  decide

theorem witness_TestPatternIsWrittenByTheConfirmPuts :
    (∃ t, exec (putOf 64 Args.zero .confirmProtocolType) State.reset = .next t ∧ t.rsp.status = some .ok) ∧
    (∃ t, exec (putOf 64 Args.zero .confirmProtocolTypeReply) State.reset = .next t ∧ t.rsp.status = some .ok) :=
  ⟨exists_of_statusOf (by decide +kernel), exists_of_statusOf (by decide +kernel)⟩

/-- The operands of the `ack` example. -/
def ackArgs : Args :=
  { Args.zero with deviceId := 0x7F, version := 0x01, source := 0x12345, destination := 0x0ABCDEF1,
                   origTransaction := 0x34, message := [0x41, 0x42] }

/-- The put of the `ack` example ends with `OK` at `len = L`. -/
theorem put_ack_done : ∃ t, exec (putOf 28 ackArgs .ack) State.reset = .next t ∧ t.rsp.status = some .ok :=
  exists_of_statusOf (by decide)

theorem witness_MessageLengthOfEveryKind :
    (20 % 4 = 0 ∧ 19 + 1 ≤ 20) ∧
    ∃ t, exec (putOf 28 ackArgs .ack) State.reset = .next t ∧ t.rsp.status = some .ok :=
  ⟨by decide, put_ack_done⟩

theorem witness_WritesOnlyTheNamedAddresses :
    (∃ t, exec (putOf 27 ackArgs .ack) State.reset = .next t ∧ t.rsp.status = some .capacityError) ∧
    (∃ t, exec (putOf 28 ackArgs .ack) State.reset = .next t ∧ t.rsp.status = some .ok) ∧
    (∃ t, exec (putOf 28 ackArgs .ack) (bufferOf nakBytes) = .next t ∧ t.rsp.status = some .ok) ∧
    State.reset.cap = (bufferOf nakBytes).cap ∧
    (∃ t, exec (.putMuid 0x0FFFFFFF) (bufferOf nakBytes) = .next t ∧ t.rsp.status = some .ok) ∧
    (∃ t, exec (.putMuidWithPosition 60 5) (bufferOf nakBytes) = .next t ∧ t.rsp.status = some .ok) ∧
    (∃ t, exec (.getNak 16) (bufferOf nakBytes) = .next t ∧ t.rsp.status = some .ok) ∧
    ((∀ len a k, Instr.getNak 16 ≠ putOf len a k) ∧ (∀ m, Instr.getNak 16 ≠ .putMuid m) ∧
      ∀ p m, Instr.getNak 16 ≠ .putMuidWithPosition p m) :=
  ⟨exists_of_statusOf (by decide), put_ack_done, exists_of_statusOf (by decide), rfl,
    exists_of_statusOf (by decide), exists_of_statusOf (by decide), exists_of_statusOf (by decide),
    fun _ _ k => by cases k <;> simp [putOf], fun _ => by simp, fun _ _ => by simp⟩

theorem witness_EveryRequestCompletesWithAStatus :
    (nakPending (Request.ofCode 0xFFFF)).pending = .request (Request.ofCode 0xFFFF) :: [] := rfl

/-- Three requests that end with the three errors. -/
def errorRequests : List (Request × Status) :=
  [(Request.ofCode 0x0022, .illegalRequest), ({ Request.ofCode 0x007F with len := 65 }, .capacityError),
   ({ Request.ofCode 0x0301 with muid := 0x10000000 }, .overflowError)]

theorem witness_ErrorsArePrecise : ∀ x ∈ errorRequests,
    (nakPending x.1).pending = .request x.1 :: [] ∧ x.2.isError = true ∧
    ∃ t, step (nakPending x.1) = .next t ∧ t.rsp.status = some x.2 := by
  intro x hx
  fin_cases hx <;> exact ⟨rfl, rfl, exists_of_statusOf (by decide)⟩

theorem witness_FaultMarkIsSetByErrorsAndNeverCleared :
    (∃ t, step (nakPending isNakRequest) = .next t ∧ t.rsp.status = some .ok) ∧
    (∃ t, step (nakPending (Request.ofCode 0x0022)) = .next t ∧ t.rsp.status = some .illegalRequest) ∧
    (nakPending isNakRequest).marked.faultMark = true ∧
    ∃ t, t.rsp.status = some .ok ∧
      Relation.ReflTransGen (fun u v => step u = .next v) (nakPending isNakRequest).marked t := by
  refine ⟨exists_of_statusOf (by decide), exists_of_statusOf (by decide), rfl, ?_⟩
  obtain ⟨t, ht, hs⟩ :=
    exists_of_statusOf (o := step (nakPending isNakRequest).marked) (st := .ok) (by decide)
  exact ⟨t, hs, .single ht⟩

theorem witness_OneOutcomeInPriorityOrder :
    (nakPending (encode (.putMuidWithPosition 61 0x10000000))).pending =
      .request (encode (.putMuidWithPosition 61 0x10000000)) :: [] ∧
    decode (encode (.putMuidWithPosition 61 0x10000000)) = .ok (.putMuidWithPosition 61 0x10000000) ∧
    2 ^ 28 ≤ (0x10000000 : Word).toNat ∧ PositionOutside State.reset 61 ∧ ¬ PositionOutside State.reset 60 ∧
    PutOverflow .ack { ackArgs with destination := 0x10000000 } ∧ ¬ PutOverflow .ack ackArgs ∧
    lengthOf .ack ackArgs = 28 ∧ Decodable (bufferOf nakBytes) 16 .nak ∧ ¬ Decodable (bufferOf nakBytes) 15 .nak ∧
    ¬ LegalCode 0x0022 := by
  refine ⟨rfl, by decide, by decide, by unfold PositionOutside; decide, by unfold PositionOutside; decide,
    .inr (.inl ⟨rfl, by decide⟩), ?_, by decide, by unfold Decodable; decide, by unfold Decodable; decide,
    by unfold LegalCode; decide⟩
  rintro (h | ⟨-, h⟩ | ⟨n, m, h, -⟩ | ⟨n, w, rs, h, hl⟩)
  · exact absurd h (by decide)
  · exact absurd h (by decide)
  · simp [payloadOperands] at h
  · simp only [payloadOperands, List.mem_cons, Prod.mk.injEq, reduceCtorEq, and_false, List.not_mem_nil, or_false,
      false_or, FieldValue.records.injEq] at h
    obtain ⟨-, rfl, rfl⟩ := h
    exact absurd hl (by decide)

theorem witness_OverflowErrorCauses :
    (∃ t, exec (.putMuid 0x10000000) State.reset = .next t ∧ t.rsp.status = some .overflowError) ∧
    (∃ t, exec (.putMuid 0x0FFFFFFF) State.reset = .next t ∧ t.rsp.status = some .ok) ∧
    (∃ t, exec (putOf 64 { ackArgs with destination := 0x10000000 } .ack) State.reset = .next t ∧
      t.rsp.status = some .overflowError) ∧
    (∃ t, exec (.putMuidWithPosition 61 0x10000000) State.reset = .next t ∧
      t.rsp.status = some .overflowError) :=
  ⟨exists_of_statusOf (by decide), exists_of_statusOf (by decide), exists_of_statusOf (by decide),
    exists_of_statusOf (by decide)⟩

theorem witness_CapacityErrorCauses :
    ((Instr.isNak 65).wellFormed = true ∧
      ∃ t, exec (.isNak 65) State.reset = .next t ∧ t.rsp.status = some .capacityError) ∧
    ((putOf 27 ackArgs .ack).wellFormed = true ∧
      ∃ t, exec (putOf 27 ackArgs .ack) State.reset = .next t ∧ t.rsp.status = some .capacityError) ∧
    ((Instr.putMuidWithPosition 61 5).wellFormed = true ∧
      ∃ t, exec (.putMuidWithPosition 61 5) State.reset = .next t ∧ t.rsp.status = some .capacityError) ∧
    ((Instr.getMuidWithPosition 60).wellFormed = true ∧
      ∃ t, exec (.getMuidWithPosition 60) State.reset = .next t ∧ t.rsp.status = some .ok) :=
  ⟨⟨rfl, exists_of_statusOf (by decide)⟩, ⟨by decide, exists_of_statusOf (by decide)⟩,
    ⟨by decide, exists_of_statusOf (by decide)⟩, ⟨rfl, exists_of_statusOf (by decide)⟩⟩

theorem witness_ResponseFieldsHeldAndNeverRead :
    (∃ t, exec (.isNak 16) (bufferOf nakBytes) = .next t ∧ t.rsp.flag ≠ none) ∧
    (∃ t, exec (.getNak 16) (bufferOf nakBytes) = .next t ∧ t.rsp.count ≠ none ∧ t.rsp.fields ≠ none) ∧
    (∃ t, exec .getMuid (bufferOf nakBytes) = .next t ∧ t.rsp.muid ≠ none) := by
  refine ⟨⟨_, rfl, ?_⟩, ⟨_, rfl, ?_, ?_⟩, ⟨_, rfl, ?_⟩⟩ <;> decide

theorem witness_ReadOfAnUnheldFieldSetsTheMark :
    (stepping State.reset (.read .flag)).pending = .read .flag :: [] ∧
    (stepping State.reset (.read .flag)).rsp.holds .flag = false ∧
    (stepping { State.reset with rsp := Response.flagged true } (.read .flag)).rsp.holds .flag = true := by decide

theorem witness_HostWriteChangesOnlyItsBytes :
    (stepping State.reset (.write 62 [1, 2])).pending = .write 62 [1, 2] :: [] ∧
    62 + [(1 : Byte), 2].length ≤ State.reset.cap.val ∧
    ([(1 : Byte), 2] ≠ [] ∧ State.reset.cap.val < 63 + [(1 : Byte), 2].length) ∧
    (stepping State.reset (.write 100 [])).pending = .write 100 [] :: [] := by decide

theorem witness_PutThenGetRoundTrip :
    (∃ t, exec (putOf 28 ackArgs .ack) State.reset = .next t ∧ t.rsp.status = some .ok) ∧
    lengthOf .ack ackArgs ≤ (28 : Word).toNat ∧ (28 : Word).toNat ≤ State.reset.cap.val ∧
    lengthOf .ack ackArgs ≤ (64 : Word).toNat ∧ (64 : Word).toNat ≤ State.reset.cap.val :=
  ⟨put_ack_done, by decide⟩

theorem witness_LengthLaws :
    (∃ t, exec (putOf 28 ackArgs .ack) State.reset = .next t ∧ t.rsp.status = some .ok) ∧
    ∃ t, exec (getOf 16 .nak) (bufferOf nakBytes) = .next t ∧ t.rsp.status = some .ok :=
  ⟨put_ack_done, exists_of_statusOf (by decide)⟩

/-- The payload bytes of the `ack` example, in stream order. -/
def ackPayload : List Byte := [0x34, 0x00, 0x00, 0x00, 0x00, 0x00, 0x00, 0x00, 0x00, 0x02, 0x41, 0x42]

theorem witness_GetChecksNothingElse :
    ((∃ vs, parseFields (fun p => ackPayload[p]?) 0 (layout .ack) = some (vs, ackPayload.length)) ∧
      (28 : Word).toNat ≤ (bufferOf ackBytes).cap.val ∧
      MessageHeld (bufferOf ackBytes).mem (28 : Word).toNat (exWire.bytes Kind.ack.subId ++ ackPayload)) ∧
    ∀ i (h : i < 48), ((List.range 48).map (BitVec.ofNat 8))[0 + i]? = some ((Vector.range 48).map (BitVec.ofNat 8))[i] := by
  refine ⟨⟨⟨_, rfl⟩, by decide, by unfold MessageHeld StreamBegins; decide⟩, ?_⟩
  intro i h
  simp [h]

theorem witness_OperationsAreFunctionsOfTheirInputs :
    (bufferOf nakBytes).cap = (bufferOf (nakBytes ++ [0x11])).cap ∧
    (∀ x < (16 : Word).toNat, (bufferOf nakBytes).mem.read x = (bufferOf (nakBytes ++ [0x11])).mem.read x) ∧
    (∃ t, exec (getOf 16 .nak) (bufferOf nakBytes) = .next t ∧ t.rsp.status = some .ok) ∧
    (∃ t, exec (getOf 16 .nak) (bufferOf (nakBytes ++ [0x11])) = .next t ∧ t.rsp.status = some .ok) ∧
    (∃ t, exec (isOf 16 .nak) (bufferOf nakBytes) = .next t ∧ t.rsp.status = some .ok) ∧
    (∃ t, exec (isOf 16 .nak) (bufferOf (nakBytes ++ [0x11])) = .next t ∧ t.rsp.status = some .ok) ∧
    (∃ t, exec (putOf 28 ackArgs .ack) State.reset = .next t ∧ t.rsp.status = some .ok) ∧
    (∃ t, exec (putOf 28 ackArgs .ack) (bufferOf nakBytes) = .next t ∧ t.rsp.status = some .ok) ∧
    Instr.isNak 16 ≠ .generateMuid :=
  ⟨rfl, by decide, exists_of_statusOf (by decide), exists_of_statusOf (by decide), exists_of_statusOf (by decide),
    exists_of_statusOf (by decide), put_ack_done, exists_of_statusOf (by decide), by simp⟩

theorem witness_TruncatedMessagesFailToParse :
    ((15 : Word).toNat ≤ (bufferOf nakBytes).cap.val ∧ (15 : Word).toNat < minimumLength .nak) ∧
    (16 : Word).toNat ≤ (bufferOf nakBytes).cap.val ∧ (0x00 : Byte) ≠ 0xF7 ∧
    ∃ t, exec (getOf 16 .nak) (bufferOf nakBytes) = .next t ∧ t.rsp.status = some .ok ∧ t.rsp.count = some 16 :=
  ⟨by decide, by decide, by decide, ⟨_, rfl, rfl, rfl⟩⟩

theorem witness_ClassifyFindsTheOneKind :
    (64 : Word).toNat ≤ (bufferOf nakBytes).cap.val ∧ flagOf (exec (isOf 64 .nak) (bufferOf nakBytes)) = some true := by
  decide

/-- The `nak` example is a canonical memory inside the buffer. -/
theorem nak_memory : (bufferOf nakBytes).mem.wf ∧ ∀ c ∈ (bufferOf nakBytes).mem, c.1 < (bufferOf nakBytes).cap.val := by
  decide

theorem witness_ResetMeetsTheInvariant :
    (bufferOf nakBytes).mem.wf ∧ (∀ c ∈ (bufferOf nakBytes).mem, c.1 < Config.resetCap.val) ∧
    (bufferOf nakBytes).mem ≠ [] := ⟨nak_memory.1, nak_memory.2, by decide⟩

theorem witness_EveryStepKeepsTheInvariant :
    (nakPending isNakRequest).Inv ∧ (nakPending (Request.ofCode 0x0022)).Inv ∧
    (∃ t, step (nakPending isNakRequest) = .next t ∧ t.rsp.status = some .ok) ∧
    ∃ t, step (nakPending (Request.ofCode 0x0022)) = .next t ∧ t.rsp.status = some .illegalRequest := by
  have inv : ∀ r, (nakPending r).Inv := fun r =>
    { memWf := nak_memory.1
      memInside := nak_memory.2
      rspLegal :=
        { statusHeld := fun _ => rfl
          errorAlone := fun _ h => by cases h
          parseAlone := fun h => by cases h
          countLegal := fun _ h => by cases h
          fieldsLegal := fun _ h => by cases h
          muidLegal := fun _ h => by cases h }
      markSet := fun _ h => by cases h }
  exact ⟨inv _, inv _, exists_of_statusOf (by decide), exists_of_statusOf (by decide)⟩

theorem witness_EqualReadsMeanEqualMemories :
    Memory.wf [(2, 4)] ∧ Memory.wf ((Memory.write [] 5 1).write 2 4 |>.write 5 0) ∧
    ∀ a, Memory.read [(2, 4)] a = ((Memory.write [] 5 1).write 2 4 |>.write 5 0).read a := by
  refine ⟨by decide, by decide, fun a => ?_⟩
  have : ((Memory.write [] 5 1).write 2 4 |>.write 5 0) = [(2, 4)] := by decide
  rw [this]

end Sys2Proof.Tests
end

section
/-! Proofs of the statements of spec/10_state.md: canonical memories, the host's own steps, which response fields an
operation holds, and the invariant of Safety.lean. -/

namespace Sys2Proof.Machine

/-! ## The states an instruction can leave

This declaration stands first: the elaborator waits here until the proofs above are checked, and so does not run the
proofs below beside the long evaluations of the tests, whose threads already take most of the memory limit. -/

/-- `Leaves s i t`: the states `t` the instruction `i` can leave from `s`, one constructor per kind of response
(R130 to R134, R154, R156, R157, R502). -/
inductive Leaves (s : State) : Instr → State → Prop
  | error (i : Instr) {e : Status} (he : e.isError = true) : Leaves s i (errorState s e)
  | flagged (len : Word) (k : Kind) (b : Bool) : Leaves s (isOf len k) (s.withRsp (Response.flagged b))
  | parseFailed (len : Word) (k : Kind) : Leaves s (getOf len k) (s.withRsp Response.parseFailed)
  | got (len : Word) (k : Kind) {q : Nat} (r : Record) (hq : 14 ≤ q) (hcap : messageLength q ≤ s.cap.val) :
      Leaves s (getOf len k) (s.withRsp (Response.got (messageLength q) r))
  | put (len : Word) (a : Args) (k : Kind) {body : List Byte} (hcap : messageLength body.length ≤ s.cap.val) :
      Leaves s (putOf len a k) ((s.withMem (writeStream s.mem 0 (frameMessage body))).withRsp
        (Response.put (messageLength body.length)))
  | muidDrawn {m : Word} (hm : m.toNat < 2 ^ 28) : Leaves s .generateMuid (s.drawn.withRsp (Response.muidIs m))
  | muidRead {i : Instr} {m : Word} (hi : i = .getMuid ∨ ∃ p, i = .getMuidWithPosition p)
      (hm : m.toNat < 2 ^ 28) : Leaves s i (s.withRsp (Response.muidIs m))
  | muidWritten {i : Instr} {p : Nat} (m : Word) (hi : Instr.IsMuid i) (hin : ∀ j < 4, addrOf (p + j) < s.cap.val) :
      Leaves s i ((s.withMem (writeStream s.mem p (muidWire m))).withRsp (Response.ofStatus .ok))

/-! ## Canonical memories -/

/-- In a canonical memory the cells are exactly the addresses that do not read as an unlisted one, each with the byte
read there: reads determine the list's members. -/
theorem Memory.mem_iff_read {m : Memory} (h : m.wf) {c : Host.Cell} :
    c ∈ m ↔ m.read c.1 = c.2 ∧ c.2 ≠ Config.unlistedByte := by
  induction m with
  | nil => simp [eq_comm]
  | cons d m ih =>
    obtain ⟨hlt, hsorted⟩ := List.pairwise_cons.mp h.1
    have ih := ih ⟨hsorted, fun c hc => h.2 c (List.mem_cons_of_mem _ hc)⟩
    rw [Memory.read_cons, List.mem_cons]
    split
    · next hdc =>
      have hnotin : c ∉ m := fun hc => (hlt c hc).ne hdc
      have hd := h.2 d List.mem_cons_self
      constructor
      · rintro (rfl | hc)
        · exact ⟨rfl, hd⟩
        · exact absurd hc hnotin
      · exact fun ⟨hv, _⟩ => .inl (Prod.ext hdc hv).symm
    · next hdc =>
      have hne : c ≠ d := by rintro rfl; exact hdc rfl
      simp only [hne, false_or, ih]

/-- Settles O58: two lists sorted by address with the same members are equal. -/
theorem equalReadsMeanEqualMemories : Obligations.EqualReadsMeanEqualMemories := by
  intro m m' h h' hread
  have : Std.Antisymm fun c d : Host.Cell => c.1 < d.1 := ⟨fun _ _ h1 h2 => absurd h1 h2.asymm⟩
  have : Std.Irrefl fun c d : Host.Cell => c.1 < d.1 := ⟨fun _ => Nat.lt_irrefl _⟩
  refine h.1.eq_of_mem_iff h'.1 fun c => ?_
  rw [Memory.mem_iff_read h, Memory.mem_iff_read h', hread]

/-! ## What a step serves -/

theorem step_idle {s : State} (hp : s.pending = []) : step s = .next s := by
  simp only [step, takeStep, hp]

theorem step_request_legal {s : State} {rest : List HostStep} {r : Request} {i : Instr}
    (hp : s.pending = .request r :: rest) (hd : decode r = .ok i) : step s = exec i (s.withPending rest) := by
  simp only [step, takeStep, hp, hd]

theorem step_request_illegal {s : State} {rest : List HostStep} {r : Request} {e : DecodeError}
    (hp : s.pending = .request r :: rest) (hd : decode r = .error e) :
    step s = .next (errorState (s.withPending rest) .illegalRequest) := by
  simp only [step, takeStep, hp, hd, illegalRequest, raise_eq]

theorem step_write {s : State} {rest : List HostStep} {a : Nat} {bs : List Byte}
    (hp : s.pending = .write a bs :: rest) : step s = hostWrite a bs (s.withPending rest) := by
  simp only [step, takeStep, hp]

theorem step_read {s : State} {rest : List HostStep} {f : RspField}
    (hp : s.pending = .read f :: rest) : step s = hostRead f (s.withPending rest) := by
  simp only [step, takeStep, hp]

/-! ## The host's own steps -/

theorem hostWrite_inside {s : State} {a : Nat} {bs : List Byte} (h : bs = [] ∨ a + bs.length ≤ s.cap.val) :
    hostWrite a bs s = .next (s.withMem (s.mem.writeFrom a bs)) := if_pos h

theorem hostWrite_outside {s : State} {a : Nat} {bs : List Byte} (hne : bs ≠ [])
    (h : s.cap.val < a + bs.length) : hostWrite a bs s = .fault .hostWriteOutsideBuffer :=
  if_neg fun h' => h'.elim hne (Nat.not_le.mpr h)

theorem hostWrite_next {s t : State} {a : Nat} {bs : List Byte} (ht : hostWrite a bs s = .next t) :
    (bs = [] ∨ a + bs.length ≤ s.cap.val) ∧ t = s.withMem (s.mem.writeFrom a bs) := by
  unfold hostWrite at ht
  split at ht
  · next h => exact ⟨h, (Host.Outcome.next.inj ht).symm⟩
  · cases ht

theorem hostRead_held {s : State} {f : RspField} (h : s.rsp.holds f = true) : hostRead f s = .next s := if_pos h

theorem hostRead_unheld {s : State} {f : RspField} (h : s.rsp.holds f = false) :
    hostRead f s = .next s.marked := if_neg (by simp [h])

theorem hostRead_next {s t : State} {f : RspField} (ht : hostRead f s = .next t) : t = s ∨ t = s.marked := by
  cases h : s.rsp.holds f with
  | true => exact .inl (Host.Outcome.next.inj (ht.symm.trans (hostRead_held h)))
  | false => exact .inr (Host.Outcome.next.inj (ht.symm.trans (hostRead_unheld h)))

/-- Settles O47, by whether the field holds a value. -/
theorem readOfAnUnheldFieldSetsTheMark : Obligations.ReadOfAnUnheldFieldSetsTheMark :=
  fun _ _ _ hp => ⟨fun h => (step_read hp).trans (hostRead_held h),
    fun h => (step_read hp).trans (hostRead_unheld h)⟩

/-- Settles O48: the write is `Memory.writeFrom`, whose reads are known byte for byte. -/
theorem hostWriteChangesOnlyItsBytes : Obligations.HostWriteChangesOnlyItsBytes := by
  intro s rest a bs hp
  refine ⟨fun hcap => ⟨s.mem.writeFrom a bs, ?_, ?_, ?_⟩, ?_, fun hne hcap => ?_⟩
  · exact (step_write hp).trans (hostWrite_inside (.inr hcap))
  · exact fun j hj => Memory.read_writeFrom s.mem bs a j hj
  · exact fun x hx => Memory.read_writeFrom_other s.mem bs hx
  · rintro rfl
    exact (step_write hp).trans (hostWrite_inside (.inl rfl))
  · exact (step_write hp).trans (hostWrite_outside hne hcap)

/-! ## Every instruction leaves one of them -/

theorem leaves_of_isOf {len : Word} {k : Kind} {s t : State} (ht : exec (isOf len k) s = .next t) :
    Leaves s (isOf len k) t := by
  rw [exec_isOf] at ht
  rcases isKind_next ht with ⟨_, rfl⟩ | ⟨_, rfl⟩
  · exact .error _ rfl
  · exact .flagged ..

theorem leaves_of_getOf {len : Word} {k : Kind} {s t : State} (ht : exec (getOf len k) s = .next t) :
    Leaves s (getOf len k) t := by
  rw [exec_getOf] at ht
  rcases getMessage_next ht with ⟨_, rfl⟩ | ⟨_, rfl, _⟩ | ⟨hlen, body, r, hw, ⟨_, hL, _⟩, rfl⟩
  · exact .error _ rfl
  · exact .parseFailed ..
  · exact .got _ _ _ (wireMessage_length hw) (hL.trans hlen)

theorem leaves_of_putOf {len : Word} {a : Args} {k : Kind} {s t : State} (ht : exec (putOf len a k) s = .next t) :
    Leaves s (putOf len a k) t := by
  rw [exec_putOf] at ht
  rcases putMessage_next ht with ⟨rfl, _⟩ | ⟨rfl, _⟩ | ⟨hlen, hL, _, _, rfl⟩
  · exact .error _ rfl
  · exact .error _ rfl
  · have hbody : (emitHeader k a.header (destinationOperand a k) ++
        emitFields ((payloadOperands a k).map Prod.snd)).length =
        14 + (emitFields ((payloadOperands a k).map Prod.snd)).length := by
      rw [List.length_append, emitHeader_length]
    rw [← hbody] at hL ⊢
    exact .put _ _ _ (hL.trans hlen)

/-- A draw, widened with zeros, is below `2^28` (R38, R130). -/
theorem draw_lt (n : Nat) : ((Config.draw n).setWidth 32).toNat < 2 ^ 28 := by
  rw [BitVec.toNat_setWidth_of_le (by decide)]
  exact (Config.draw n).isLt

/-- Every instruction leaves one of the states `Leaves` lists. -/
theorem leaves_of_exec {i : Instr} {s t : State} (ht : exec i s = .next t) : Leaves s i t := by
  rcases instr_shape i with ⟨len, k, rfl⟩ | ⟨len, k, rfl⟩ | ⟨len, a, k, rfl⟩ | rfl | ⟨m, rfl⟩ | rfl |
    ⟨p, m, rfl⟩ | ⟨p, rfl⟩
  · exact leaves_of_isOf ht
  · exact leaves_of_getOf ht
  · exact leaves_of_putOf ht
  · rw [generateMuid_next ht]
    exact .muidDrawn (draw_lt s.draws)
  · rcases putMuid_next ht with ⟨_, rfl⟩ | ⟨_, rfl⟩
    · exact .error _ rfl
    · refine .muidWritten m (isMuid_putMuid m) fun j hj => ?_
      have := s.cap.lower
      unfold addrOf
      omega
  · rw [getMuid_next ht]
    exact .muidRead (.inl rfl) (muidFrom_lt ..)
  · rcases putMuidWithPosition_next ht with ⟨_, rfl⟩ | ⟨_, _, rfl⟩ | ⟨_, hin, rfl⟩
    · exact .error _ rfl
    · exact .error _ rfl
    · exact .muidWritten m (isMuid_putMuidWithPosition p m) (position_inside hin)
  · rcases getMuidWithPosition_next ht with ⟨_, rfl⟩ | ⟨_, rfl⟩
    · exact .error _ rfl
    · exact .muidRead (.inr ⟨p, rfl⟩) (muidFrom_lt ..)

/-! ## Which fields each response holds -/

theorem errorState_rsp (s : State) (e : Status) : (errorState s e).rsp = Response.ofStatus e := rfl

theorem Response.ofStatus_eq (e : Status) : Response.ofStatus e = ⟨some e, none, none, none, none⟩ := rfl

theorem Response.flagged_eq (b : Bool) : Response.flagged b = ⟨some .ok, none, some b, none, none⟩ := rfl

theorem Response.parseFailed_eq : Response.parseFailed = ⟨some .parseError, some 0, none, none, none⟩ := rfl

theorem Response.got_eq (n : Nat) (r : Record) :
    Response.got n r = ⟨some .ok, some (BitVec.ofNat 32 n), none, none, some r⟩ := rfl

theorem Response.put_eq (n : Nat) : Response.put n = ⟨some .ok, some (BitVec.ofNat 32 n), none, none, none⟩ := rfl

theorem Response.muidIs_eq (m : Word) : Response.muidIs m = ⟨some .ok, none, none, some m, none⟩ := rfl

theorem Status.ne_ok_of_isError {e : Status} (h : e.isError = true) : e ≠ .ok := by rintro rfl; cases h

theorem Status.ne_parseError_of_isError {e : Status} (h : e.isError = true) : e ≠ .parseError := by
  rintro rfl; cases h

/-- No message instruction is one of the five MUID operations (R91, R92). -/
theorem not_message_of_isMuid {i : Instr} (h : Instr.IsMuid i) :
    (¬ ∃ len k, i = isOf len k) ∧ (¬ ∃ len a k, i = putOf len a k) ∧ (¬ ∃ len k, i = getOf len k) :=
  ⟨fun ⟨_, _, e⟩ => isOf_ne_muid h e.symm, fun ⟨_, _, _, e⟩ => putOf_ne_muid h e.symm,
    fun ⟨_, _, e⟩ => getOf_ne_muid h e.symm⟩

theorem isMuid_of_read {i : Instr} (h : i = .getMuid ∨ ∃ p, i = .getMuidWithPosition p) : Instr.IsMuid i := by
  rcases h with rfl | ⟨p, rfl⟩
  · exact isMuid_getMuid
  · exact isMuid_getMuidWithPosition p

/-- R40, R41: what holds a value in the response after an instruction, by its class and its status. -/
def HoldsAsWritten (i : Instr) (r : Response) : Prop :=
  (∃ st, r.status = some st) ∧
  (r.flag ≠ none ↔ r.status = some .ok ∧ ∃ len k, i = isOf len k) ∧
  (r.count ≠ none ↔ (r.status = some .ok ∧ ∃ len a k, i = putOf len a k) ∨
    ((r.status = some .ok ∨ r.status = some .parseError) ∧ ∃ len k, i = getOf len k)) ∧
  (r.muid ≠ none → i = .generateMuid ∨ i = .getMuid ∨ ∃ p, i = .getMuidWithPosition p) ∧
  (r.fields ≠ none → r.status = some .ok ∧ ∃ len k, i = getOf len k)

theorem holdsAsWritten_of_leaves {i : Instr} {s t : State} (h : Leaves s i t) : HoldsAsWritten i t.rsp := by
  unfold HoldsAsWritten
  cases h with
  | error i he =>
    simp [errorState_rsp, Response.ofStatus_eq, Status.ne_ok_of_isError he, Status.ne_parseError_of_isError he]
  | flagged len k b =>
    have hself : ∃ l j, isOf len k = isOf l j := ⟨_, _, rfl⟩
    simp [Response.flagged_eq, hself, isOf_ne_getOf, isOf_ne_putOf]
  | parseFailed len k =>
    have hself : ∃ l j, getOf len k = getOf l j := ⟨_, _, rfl⟩
    simp [Response.parseFailed_eq, hself]
  | got len k r =>
    have hself : ∃ l j, getOf len k = getOf l j := ⟨_, _, rfl⟩
    simp [Response.got_eq, hself, isOf_ne_getOf.symm]
  | put len a k =>
    have hself : ∃ l b j, putOf len a k = putOf l b j := ⟨_, _, _, rfl⟩
    simp [Response.put_eq, hself, isOf_ne_putOf.symm]
  | muidDrawn =>
    simp [Response.muidIs_eq, not_message_of_isMuid isMuid_generateMuid]
  | muidRead hi =>
    simp [Response.muidIs_eq, not_message_of_isMuid (isMuid_of_read hi), hi]
  | muidWritten m hi =>
    simp [Response.ofStatus_eq, not_message_of_isMuid hi]

/-- The outcome of an instruction does not depend on the response before it (R41): the operations read the memory, the
capacity and the draw counter, and replace the whole response. -/
theorem exec_withRsp (i : Instr) (s : State) (r : Response) : exec i (s.withRsp r) = exec i s := by
  rcases instr_shape i with ⟨len, k, rfl⟩ | ⟨len, k, rfl⟩ | ⟨len, a, k, rfl⟩ | rfl | ⟨m, rfl⟩ | rfl |
    ⟨p, m, rfl⟩ | ⟨p, rfl⟩
  · rw [exec_isOf, exec_isOf]; rfl
  · rw [exec_getOf, exec_getOf]; rfl
  · rw [exec_putOf, exec_putOf]; rfl
  all_goals rfl

/-- Settles O46, by the states an instruction can leave. -/
theorem responseFieldsHeldAndNeverRead : Obligations.ResponseFieldsHeldAndNeverRead :=
  ⟨fun _ _ _ ht => holdsAsWritten_of_leaves (leaves_of_exec ht), exec_withRsp⟩

/-! ## Legal responses -/

theorem Response.legal_unheld (cap : Nat) : Response.unheld.Legal cap where
  statusHeld _ := rfl
  errorAlone _ h := by cases h
  parseAlone h := by cases h
  countLegal _ h := by cases h
  fieldsLegal _ h := by cases h
  muidLegal _ h := by cases h

theorem Response.legal_ofStatus {cap : Nat} {e : Status} (he : e ≠ .parseError) :
    (Response.ofStatus e).Legal cap where
  statusHeld h := by cases h
  errorAlone _ h _ := by cases h; rfl
  parseAlone h := absurd (Option.some.inj h) he
  countLegal _ h := by cases h
  fieldsLegal _ h := by cases h
  muidLegal _ h := by cases h

theorem Response.legal_parseFailed (cap : Nat) : Response.parseFailed.Legal cap where
  statusHeld h := by cases h
  errorAlone _ h he := by cases h; cases he
  parseAlone _ := rfl
  countLegal _ h := by cases h; simp
  fieldsLegal _ h := by cases h
  muidLegal _ h := by cases h

/-- A response that ends `OK` is legal when each field it holds is. -/
theorem Response.legal_of_ok {cap : Nat} {r : Response} (hok : r.status = some .ok)
    (hcount : ∀ c, r.count = some c → c.toNat % 4 = 0 ∧ c.toNat ≤ cap)
    (hfields : ∀ f, r.fields = some f → ∃ c, r.count = some c ∧ 16 ≤ c.toNat)
    (hmuid : ∀ m, r.muid = some m → m.toNat < 2 ^ 28) : r.Legal cap where
  statusHeld h := by rw [hok] at h; cases h
  errorAlone _ h he := by rw [hok] at h; cases h; cases he
  parseAlone h := by rw [hok] at h; cases h
  countLegal := hcount
  fieldsLegal f hf := ⟨hok, hfields f hf⟩
  muidLegal := hmuid

theorem Response.legal_flagged (cap : Nat) (b : Bool) : (Response.flagged b).Legal cap :=
  legal_of_ok rfl (fun _ h => by cases h) (fun _ h => by cases h) (fun _ h => by cases h)

theorem Response.legal_muidIs (cap : Nat) {m : Word} (hm : m.toNat < 2 ^ 28) : (Response.muidIs m).Legal cap :=
  legal_of_ok rfl (fun _ h => by cases h) (fun _ h => by cases h) (fun _ h => by cases h; exact hm)

/-- A message length inside a buffer fits the 32-bit `count` (R7, R78). -/
theorem toNat_count {cap : BufCap} {n : Nat} (h : n ≤ cap.val) : (BitVec.ofNat 32 n).toNat = n := by
  have := cap.upper
  rw [BitVec.toNat_ofNat]
  omega

theorem Response.legal_put {cap : BufCap} {q : Nat} (h : messageLength q ≤ cap.val) :
    (Response.put (messageLength q)).Legal cap.val := by
  refine legal_of_ok rfl (fun c hc => ?_) (fun _ hf => by cases hf) (fun _ hm => by cases hm)
  cases hc
  rw [toNat_count h]
  exact ⟨messageLength_mod q, h⟩

theorem Response.legal_got {cap : BufCap} {q : Nat} {r : Record} (hq : 14 ≤ q) (h : messageLength q ≤ cap.val) :
    (Response.got (messageLength q) r).Legal cap.val := by
  refine legal_of_ok rfl (fun c hc => ?_) (fun _ _ => ⟨_, rfl, ?_⟩) (fun _ hm => by cases hm)
  · cases hc
    rw [toNat_count h]
    exact ⟨messageLength_mod q, h⟩
  · rw [toNat_count h]
    exact messageLength_mono hq

/-! ## Updates that keep the invariant -/

/-- Any update keeps the invariant that leaves the response as it is, clears no mark and writes a canonical memory
inside the same buffer. -/
theorem State.Inv.of_same_rsp {s t : State} (h : s.Inv) (hrsp : t.rsp = s.rsp) (hcap : t.cap = s.cap)
    (hmark : s.faultMark = true → t.faultMark = true) (hwf : t.mem.wf) (hin : t.mem.Inside s.cap.val) : t.Inv where
  memWf := hwf
  memInside := hcap ▸ hin
  rspLegal := by rw [hrsp, hcap]; exact h.rspLegal
  markSet st hst he := hmark (h.markSet st (hrsp ▸ hst) he)

theorem State.Inv.withMem {s : State} (h : s.Inv) {m : Memory} (hwf : m.wf) (hin : m.Inside s.cap.val) :
    (s.withMem m).Inv := h.of_same_rsp rfl rfl id hwf hin

theorem State.Inv.withPending {s : State} (h : s.Inv) (p : List HostStep) : (s.withPending p).Inv :=
  h.of_same_rsp rfl rfl id h.memWf h.memInside

theorem State.Inv.drawn {s : State} (h : s.Inv) : s.drawn.Inv := h.of_same_rsp rfl rfl id h.memWf h.memInside

theorem State.Inv.marked {s : State} (h : s.Inv) : s.marked.Inv :=
  h.of_same_rsp rfl rfl (fun _ => rfl) h.memWf h.memInside

/-- A legal response that is no error may replace the whole response (R40). -/
theorem State.Inv.withRsp {s : State} (h : s.Inv) {r : Response} (hr : r.Legal s.cap.val) {st : Status}
    (hst : r.status = some st) (hno : st.isError = false) : (s.withRsp r).Inv where
  memWf := h.memWf
  memInside := h.memInside
  rspLegal := hr
  markSet e he herr := by
    obtain rfl : st = e := Option.some.inj (hst.symm.trans he)
    rw [hno] at herr
    cases herr

theorem State.Inv.errorState {s : State} (h : s.Inv) {e : Status} (he : e.isError = true) :
    (errorState s e).Inv where
  memWf := h.memWf
  memInside := h.memInside
  rspLegal := Response.legal_ofStatus (Status.ne_parseError_of_isError he)
  markSet _ _ _ := rfl

/-- A stream whose addresses lie in the buffer is written with the invariant kept. -/
theorem State.Inv.writeStream {s : State} (h : s.Inv) {p : Nat} {bs : List Byte}
    (hin : ∀ i < bs.length, addrOf (p + i) < s.cap.val) : (s.withMem (writeStream s.mem p bs)).Inv :=
  h.withMem (wf_writeStream bs p h.memWf) (inside_writeStream bs p h.memInside hin)

/-- A framed message fills whole groups, so its addresses lie below its length. -/
theorem frameMessage_inside {body : List Byte} {n : Nat} (h : messageLength body.length ≤ n) :
    ∀ i < (frameMessage body).length, addrOf (0 + i) < n := by
  intro i hi
  rw [frameMessage_length, messageLength_eq] at hi
  rw [messageLength_eq] at h
  exact Nat.lt_of_lt_of_le ((addrOf_lt (0 + i) _).mpr (by omega)) h

/-! ## The invariant -/

theorem State.Inv.of_leaves {i : Instr} {s t : State} (h : s.Inv) (hl : Leaves s i t) : t.Inv := by
  cases hl with
  | error _ he => exact h.errorState he
  | flagged _ _ b => exact h.withRsp (Response.legal_flagged _ b) rfl rfl
  | parseFailed => exact h.withRsp (Response.legal_parseFailed _) rfl rfl
  | got _ _ _ hq hcap => exact h.withRsp (Response.legal_got hq hcap) rfl rfl
  | put _ _ _ hcap =>
    exact (h.writeStream (frameMessage_inside hcap)).withRsp (Response.legal_put hcap) rfl rfl
  | muidDrawn hm => exact h.drawn.withRsp (Response.legal_muidIs _ hm) rfl rfl
  | muidRead _ hm => exact h.withRsp (Response.legal_muidIs _ hm) rfl rfl
  | muidWritten m _ hin =>
    exact (h.writeStream (bs := muidWire m) hin).withRsp (Response.legal_ofStatus (by decide)) rfl rfl

theorem State.Inv.exec {i : Instr} {s t : State} (h : s.Inv) (ht : exec i s = .next t) : t.Inv :=
  h.of_leaves (leaves_of_exec ht)

theorem State.Inv.hostWrite {s t : State} {a : Nat} {bs : List Byte} (h : s.Inv)
    (ht : hostWrite a bs s = .next t) : t.Inv := by
  obtain ⟨hin, rfl⟩ := hostWrite_next ht
  exact h.withMem (Memory.wf_writeFrom bs a h.memWf) (Memory.inside_writeFrom bs a h.memInside hin)

theorem State.Inv.hostRead {s t : State} {f : RspField} (h : s.Inv) (ht : hostRead f s = .next t) : t.Inv := by
  rcases hostRead_next ht with rfl | rfl
  · exact h
  · exact h.marked

/-- Settles O57, by the host's next step and, for a request, by what its code decodes to. -/
theorem everyStepKeepsTheInvariant : Obligations.EveryStepKeepsTheInvariant := by
  intro s t h ht
  cases hp : s.pending with
  | nil =>
    obtain rfl : s = t := Host.Outcome.next.inj ((step_idle hp).symm.trans ht)
    exact h
  | cons st rest =>
    have hrest := h.withPending rest
    cases st with
    | request r =>
      cases hd : decode r with
      | ok i => exact hrest.exec ((step_request_legal hp hd).symm.trans ht)
      | error e =>
        obtain rfl := Host.Outcome.next.inj ((step_request_illegal hp hd).symm.trans ht)
        exact hrest.errorState rfl
    | write a bs => exact hrest.hostWrite ((step_write hp).symm.trans ht)
    | read f => exact hrest.hostRead ((step_read hp).symm.trans ht)

theorem State.Inv.resetWith {cap : BufCap} {mem : Memory} (hwf : mem.wf) (hin : mem.Inside cap.val) :
    (State.resetWith cap mem).Inv where
  memWf := hwf
  memInside := hin
  rspLegal := Response.legal_unheld _
  markSet _ h := by cases h

/-- Settles O56: `State.reset` is the reset state with nothing listed. -/
theorem resetMeetsTheInvariant : Obligations.ResetMeetsTheInvariant :=
  ⟨State.Inv.resetWith Memory.wf_nil (fun _ hc => nomatch hc), fun _ _ hwf hin => State.Inv.resetWith hwf hin⟩

end Sys2Proof.Machine
end

section
/-! Proofs of the statements of spec/20_memory.md: the position map, the walk of the group cursor, and the addresses
each operation writes. -/

namespace Sys2Proof.Machine

/-! ## The position map -/

/-- Whole groups are kept (R64): the addresses below `4k` are those of the positions below `4k`. -/
theorem lt_iff_exists_position {k a : Nat} : a < 4 * k ↔ ∃ p < 4 * k, addrOf p = a := by
  constructor
  · exact fun h => ⟨addrOf a, (addrOf_lt a k).mpr h, addrOf_addrOf a⟩
  · rintro ⟨p, hp, rfl⟩
    exact (addrOf_lt p k).mpr hp

theorem addrOf_group (g : Nat) {j : Nat} (h : j < 4) : addrOf (4 * g + j) = 4 * g + (3 - j) := by
  unfold addrOf
  omega

theorem cursorAdvance_iterate (i p : Nat) : cursorAdvance^[i] (cursorAt p) = cursorAt (p + i) := by
  induction i with
  | zero => rfl
  | succ i ih => rw [Function.iterate_succ_apply', ih, cursorAdvance_cursorAt, Nat.add_assoc]

/-- Settles O33: the cursor stays the cursor of a position, which each advance moves by one. -/
theorem cursorWalksThePositions : Obligations.CursorWalksThePositions := by
  refine ⟨fun _ => rfl, by decide, fun p i => ?_⟩
  rw [cursorAdvance_iterate, cursorAddr_cursorAt]

/-- Settles O34: the map is an involution, hence a bijection, and maps each group to itself. -/
theorem positionMapReversesEachGroup : Obligations.PositionMapReversesEachGroup :=
  ⟨Function.Involutive.bijective addrOf_addrOf, addrOf_addrOf, fun g _ => addrOf_group g,
    fun _ _ => lt_iff_exists_position⟩

/-! ## What a written stream determines -/

/-- The bytes at a stream's own addresses do not depend on the memory before it was written. -/
theorem read_writeStream_congr (m m' : Memory) (bs : List Byte) {p i : Nat} (h : i < bs.length) :
    (writeStream m p bs).read (addrOf (p + i)) = (writeStream m' p bs).read (addrOf (p + i)) := by
  rw [read_writeStream m bs p i h, read_writeStream m' bs p i h]

section WholeGroups

variable {bs : List Byte} {k x : Nat} (hlen : bs.length = 4 * k)
include hlen

/-- A stream of `k` whole groups from position 0 writes no address from `4k` up. -/
theorem read_writeStream_groups_other (m : Memory) (hx : 4 * k ≤ x) : (writeStream m 0 bs).read x = m.read x := by
  refine read_writeStream_other m bs fun i hi hxi => ?_
  rw [hlen, ← addrOf_lt, ← Nat.zero_add i, ← hxi] at hi
  omega

/-- A stream of `k` whole groups from position 0 writes every address below `4k`. -/
theorem read_writeStream_groups_congr (m m' : Memory) (hx : x < 4 * k) :
    (writeStream m 0 bs).read x = (writeStream m' 0 bs).read x := by
  obtain ⟨i, hi, rfl⟩ := lt_iff_exists_position.mp hx
  rw [← Nat.zero_add i]
  exact read_writeStream_congr m m' bs (hlen ▸ hi)

end WholeGroups

/-- A framed message is `L / 4` whole groups. -/
theorem frameMessage_bodyOf_length (k : Kind) (a : Args) :
    (frameMessage (bodyOf k a)).length = 4 * (((bodyOf k a).length + 4) / 4) := frameMessage_length _

/-! ## The instructions that write nothing -/

/-- An instruction that does not end `OK` leaves the memory as it is (R502, R503). -/
theorem mem_of_status_ne_ok {i : Instr} {s t : State} (ht : exec i s = .next t) (hs : t.rsp.status ≠ some .ok) :
    t.mem = s.mem := by
  cases leaves_of_exec ht with
  | error | parseFailed | flagged | got | muidDrawn | muidRead => rfl
  | put | muidWritten => exact absurd rfl hs

theorem mem_of_isOf {len : Word} {k : Kind} {s t : State} (ht : exec (isOf len k) s = .next t) : t.mem = s.mem := by
  rw [exec_isOf] at ht
  rcases isKind_next ht with ⟨_, rfl⟩ | ⟨_, rfl⟩ <;> rfl

theorem mem_of_getOf {len : Word} {k : Kind} {s t : State} (ht : exec (getOf len k) s = .next t) :
    t.mem = s.mem := by
  rw [exec_getOf] at ht
  rcases getMessage_next ht with ⟨_, rfl⟩ | ⟨_, rfl, _⟩ | ⟨_, _, _, _, _, rfl⟩ <;> rfl

theorem mem_of_getMuidWithPosition {p : Word} {s t : State} (ht : exec (.getMuidWithPosition p) s = .next t) :
    t.mem = s.mem := by
  rcases getMuidWithPosition_next ht with ⟨_, rfl⟩ | ⟨_, rfl⟩ <;> rfl

/-- Only the puts and the two MUID puts write the memory. -/
theorem mem_of_not_put {i : Instr} {s t : State} (ht : exec i s = .next t) (hput : ∀ len a k, i ≠ putOf len a k)
    (hmuid : ∀ m, i ≠ .putMuid m) (hpos : ∀ p m, i ≠ .putMuidWithPosition p m) : t.mem = s.mem := by
  rcases instr_shape i with ⟨_, _, rfl⟩ | ⟨_, _, rfl⟩ | ⟨len, a, k, rfl⟩ | rfl | ⟨m, rfl⟩ | rfl |
    ⟨p, m, rfl⟩ | ⟨_, rfl⟩
  · exact mem_of_isOf ht
  · exact mem_of_getOf ht
  · exact absurd rfl (hput len a k)
  · rw [generateMuid_next ht]; rfl
  · exact absurd rfl (hmuid m)
  · rw [getMuid_next ht]; rfl
  · exact absurd rfl (hpos p m)
  · exact mem_of_getMuidWithPosition ht

/-! ## Whether a put completes depends on its operands and the capacity alone -/

theorem putOf_ok_of_cap_eq {len : Word} {a : Args} {k : Kind} {s t s' t' : State}
    (ht : exec (putOf len a k) s = .next t) (hs : t.rsp.status = some .ok) (hcap : s'.cap = s.cap)
    (ht' : exec (putOf len a k) s' = .next t') : t'.rsp.status = some .ok := by
  obtain ⟨hlen, hL, hrange, -⟩ := putOf_ok ht hs
  have hLeq : lengthOf k a = messageLength (14 + (emitFields ((payloadOperands a k).map Prod.snd)).length) := by
    rw [lengthOf, bodyOf, List.length_append, emitHeader_length]
  rw [exec_putOf] at ht'
  rcases putMessage_next ht' with ⟨_, hout⟩ | ⟨_, hfull⟩ | ⟨_, _, _, _, rfl⟩
  · exact absurd (inRange_iff.mpr hrange) hout
  · rw [hcap, ← hLeq] at hfull
    omega
  · rfl

theorem putMuid_ok {m : Word} {s t : State} (ht : exec (.putMuid m) s = .next t) (hs : t.rsp.status = some .ok) :
    m.toNat < 2 ^ 28 ∧ t = (s.withMem (writeStream s.mem 0 (muidWire m))).withRsp (Response.ofStatus .ok) := by
  rcases putMuid_next ht with ⟨_, rfl⟩ | h
  · cases hs
  · exact h

theorem putMuid_ok_of_any {m : Word} {s t s' t' : State} (ht : exec (.putMuid m) s = .next t)
    (hs : t.rsp.status = some .ok) (ht' : exec (.putMuid m) s' = .next t') : t'.rsp.status = some .ok := by
  obtain ⟨hm, -⟩ := putMuid_ok ht hs
  rcases putMuid_next ht' with ⟨hbig, _⟩ | ⟨_, rfl⟩
  · omega
  · rfl

theorem putMuidWithPosition_ok {p m : Word} {s t : State} (ht : exec (.putMuidWithPosition p m) s = .next t)
    (hs : t.rsp.status = some .ok) :
    m.toNat < 2 ^ 28 ∧ ¬ PositionOutside s p ∧
      t = (s.withMem (writeStream s.mem p.toNat (muidWire m))).withRsp (Response.ofStatus .ok) := by
  rcases putMuidWithPosition_next ht with ⟨_, rfl⟩ | ⟨_, _, rfl⟩ | h
  · cases hs
  · cases hs
  · exact h

theorem putMuidWithPosition_ok_of_cap_eq {p m : Word} {s t s' t' : State}
    (ht : exec (.putMuidWithPosition p m) s = .next t) (hs : t.rsp.status = some .ok) (hcap : s'.cap = s.cap)
    (ht' : exec (.putMuidWithPosition p m) s' = .next t') : t'.rsp.status = some .ok := by
  obtain ⟨hm, hin, -⟩ := putMuidWithPosition_ok ht hs
  rcases putMuidWithPosition_next ht' with ⟨hbig, _⟩ | ⟨_, hout, _⟩ | ⟨_, _, rfl⟩
  · omega
  · rw [PositionOutside, hcap] at hout
    exact absurd hout hin
  · rfl

/-! ## The addresses the puts write -/

section PutOf

variable {len : Word} {a : Args} {k : Kind} {s t : State} (ht : exec (putOf len a k) s = .next t)
  (hs : t.rsp.status = some .ok)
include ht hs

theorem putOf_read_other {x : Nat} (hx : lengthOf k a ≤ x) : t.mem.read x = s.mem.read x := by
  obtain ⟨-, -, -, rfl⟩ := putOf_ok ht hs
  exact read_writeStream_groups_other (frameMessage_bodyOf_length k a) s.mem hx

theorem putOf_read_congr {s' t' : State} (hcap : s'.cap = s.cap) (ht' : exec (putOf len a k) s' = .next t')
    {x : Nat} (hx : x < lengthOf k a) : t'.mem.read x = t.mem.read x := by
  obtain ⟨-, -, -, rfl⟩ := putOf_ok ht' (putOf_ok_of_cap_eq ht hs hcap ht')
  obtain ⟨-, -, -, rfl⟩ := putOf_ok ht hs
  exact read_writeStream_groups_congr (frameMessage_bodyOf_length k a) s'.mem s.mem hx

end PutOf

section PutMuid

variable {m : Word} {s t : State} (ht : exec (.putMuid m) s = .next t) (hs : t.rsp.status = some .ok)
include ht hs

theorem putMuid_read_other {x : Nat} (hx : 4 ≤ x) : t.mem.read x = s.mem.read x := by
  obtain ⟨-, rfl⟩ := putMuid_ok ht hs
  exact read_writeStream_groups_other (bs := muidWire m) (k := 1) rfl s.mem hx

theorem putMuid_read_congr {s' t' : State} (ht' : exec (.putMuid m) s' = .next t') {x : Nat} (hx : x < 4) :
    t'.mem.read x = t.mem.read x := by
  obtain ⟨-, rfl⟩ := putMuid_ok ht' (putMuid_ok_of_any ht hs ht')
  obtain ⟨-, rfl⟩ := putMuid_ok ht hs
  exact read_writeStream_groups_congr (bs := muidWire m) (k := 1) rfl s'.mem s.mem hx

end PutMuid

section PutMuidWithPosition

variable {p m : Word} {s t : State} (ht : exec (.putMuidWithPosition p m) s = .next t)
  (hs : t.rsp.status = some .ok)
include ht hs

theorem putMuidWithPosition_read_other {x : Nat} (hx : ∀ j < 4, x ≠ addrOf (p.toNat + j)) :
    t.mem.read x = s.mem.read x := by
  obtain ⟨-, -, rfl⟩ := putMuidWithPosition_ok ht hs
  exact read_writeStream_other s.mem (muidWire m) hx

theorem putMuidWithPosition_read_congr {s' t' : State} (hcap : s'.cap = s.cap)
    (ht' : exec (.putMuidWithPosition p m) s' = .next t') {j : Nat} (hj : j < 4) :
    t'.mem.read (addrOf (p.toNat + j)) = t.mem.read (addrOf (p.toNat + j)) := by
  obtain ⟨-, -, rfl⟩ := putMuidWithPosition_ok ht' (putMuidWithPosition_ok_of_cap_eq ht hs hcap ht')
  obtain ⟨-, -, rfl⟩ := putMuidWithPosition_ok ht hs
  exact read_writeStream_congr s'.mem s.mem (muidWire m) hj

end PutMuidWithPosition

/-- Settles O39, class by class: each put that completes writes one stream, and nothing else writes. -/
theorem writesOnlyTheNamedAddresses : Obligations.WritesOnlyTheNamedAddresses := by
  intro i s t ht
  refine ⟨mem_of_status_ne_ok ht, ?_, ?_, ?_, mem_of_not_put ht⟩
  · rintro len a k rfl hs
    exact ⟨fun _ => putOf_read_other ht hs, fun _ _ hcap ht' _ => putOf_read_congr ht hs hcap ht'⟩
  · rintro m rfl hs
    exact ⟨fun _ => putMuid_read_other ht hs, fun _ _ ht' _ => putMuid_read_congr ht hs ht'⟩
  · rintro p m rfl hs
    exact ⟨fun _ => putMuidWithPosition_read_other ht hs,
      fun _ _ hcap ht' _ => putMuidWithPosition_read_congr ht hs hcap ht'⟩

end Sys2Proof.Machine
end

section
/-! Proofs of the statements of spec/30_encoding.md: the request code and its decoder, the Sub-ID#2 map with the
classifier over it, and the wire form and size of fields and messages. -/

namespace Sys2Proof.Machine

/-! ## The request code -/

/-- The three fields of R90 make up the whole code. -/
theorem op_ext {x y : Half} (hrsv : opRsv x = opRsv y) (hcls : OpClass.ofCode (opCls x) = OpClass.ofCode (opCls y))
    (hsel : opSel x = opSel y) : x = y := by
  have hinj : ∀ c d : BitVec 2, OpClass.ofCode c = OpClass.ofCode d → c = d := by decide
  have hcls := hinj _ _ hcls
  rw [← BitVec.toNat_inj, opRsv_toNat, opRsv_toNat] at hrsv
  rw [← BitVec.toNat_inj, opCls_toNat, opCls_toNat] at hcls
  rw [← BitVec.toNat_inj, opSel_toNat, opSel_toNat] at hsel
  apply BitVec.eq_of_toNat_eq
  omega

/-- A code with reserved bits 0 is put together from its class and its selector (R90). -/
theorem opCode_of_opRsv {op : Half} (h : opRsv op = 0) : opCode (OpClass.ofCode (opCls op)) (opSel op) = op :=
  op_ext ((opRsv_opCode _ _).trans h.symm) (ofCode_opCls_opCode _ _) (opSel_opCode _ _)

theorem opCode_inj {c d : OpClass} {b b' : Byte} : opCode c b = opCode d b' ↔ c = d ∧ b = b' := by
  refine ⟨fun h => ⟨?_, ?_⟩, ?_⟩
  · rw [← ofCode_opCls_opCode c b, h, ofCode_opCls_opCode]
  · rw [← opSel_opCode c b, h, opSel_opCode]
  · rintro ⟨rfl, rfl⟩; rfl

/-- The selectors of the legal codes of a class, in the order of R96 and R92. -/
def selectorsOf : OpClass → List Byte
  | .is | .get | .put => subIdValues
  | .muid => [0x00, 0x01, 0x02, 0x03, 0x04]

theorem mem_selectorsOf_message {c : OpClass} (hc : c ≠ .muid) {b : Byte} :
    b ∈ selectorsOf c ↔ ∃ k, Kind.ofSubId b = some k := by
  rw [← mem_subIdValues]
  cases c with
  | is | get | put => rfl
  | muid => exact absurd rfl hc

theorem mem_selectorsOf_muid {b : Byte} :
    b ∈ selectorsOf .muid ↔ b = 0x00 ∨ b = 0x01 ∨ b = 0x02 ∨ b = 0x03 ∨ b = 0x04 := by
  simp [selectorsOf]

/-- R93 in the fields of the code (R90). -/
theorem legalCode_iff {op : Half} :
    LegalCode op ↔ opRsv op = 0 ∧ opSel op ∈ selectorsOf (OpClass.ofCode (opCls op)) := by
  have hmuid : ∀ c : BitVec 2, c.toNat = 3 ↔ OpClass.ofCode c = .muid := by decide
  have hsel : (opSel op).toNat ≤ 4 ↔ opSel op ∈ selectorsOf .muid := by
    rw [mem_selectorsOf_muid]
    bv_omega
  rw [LegalCode, ← opRsv_toNat, ← opCls_toNat, ← opSel_toNat, BitVec.ofNat_toNat, BitVec.setWidth_eq, Ne, hmuid, hsel,
    ← BitVec.toNat_inj]
  cases OpClass.ofCode (opCls op) <;> simp [selectorsOf]

theorem legalCode_opCode {c : OpClass} {b : Byte} : LegalCode (opCode c b) ↔ b ∈ selectorsOf c := by
  rw [legalCode_iff, opRsv_opCode, opSel_opCode, ofCode_opCls_opCode]
  exact and_iff_right rfl

theorem exists_opCode_of_legalCode {op : Half} (h : LegalCode op) : ∃ c, ∃ b ∈ selectorsOf c, op = opCode c b := by
  obtain ⟨hrsv, hsel⟩ := legalCode_iff.mp h
  exact ⟨_, _, hsel, (opCode_of_opRsv hrsv).symm⟩

/-! ## The decoder, class by class -/

theorem messageOf_subId (k : Kind) (f : Kind → Instr) : messageOf k.subId f = .ok (f k) := by
  rw [messageOf, ofSubId_subId]

theorem decode_muid {r : Request} {b : Byte} (h : r.op = opCode .muid b) : decode r = muidOf r := by
  simp only [decode, h, opRsv_opCode, ofCode_opCls_opCode, if_true]

/-- `Decodes r i`: the request `r` carries the code of the instruction `i`, and `i` takes its operands from the ports
of `r`; one constructor per row of R91 and R92. -/
inductive Decodes (r : Request) : Instr → Prop
  | is (k : Kind) (h : r.op = opCode .is k.subId) : Decodes r (isOf r.len k)
  | get (k : Kind) (h : r.op = opCode .get k.subId) : Decodes r (getOf r.len k)
  | put (k : Kind) (h : r.op = opCode .put k.subId) : Decodes r (putOf r.len r.args k)
  | generateMuid (h : r.op = opCode .muid 0x00) : Decodes r .generateMuid
  | putMuid (h : r.op = opCode .muid 0x01) : Decodes r (.putMuid r.muid)
  | getMuid (h : r.op = opCode .muid 0x02) : Decodes r .getMuid
  | putMuidWithPosition (h : r.op = opCode .muid 0x03) : Decodes r (.putMuidWithPosition r.pos r.muid)
  | getMuidWithPosition (h : r.op = opCode .muid 0x04) : Decodes r (.getMuidWithPosition r.pos)

theorem Decodes.decode_eq {r : Request} {i : Instr} (h : Decodes r i) : decode r = .ok i := by
  cases h with
  | is k h | get k h | put k h =>
    simp only [decode, h, opRsv_opCode, ofCode_opCls_opCode, opSel_opCode, messageOf_subId, if_true]
  | generateMuid h | putMuid h | getMuid h | putMuidWithPosition h | getMuidWithPosition h =>
    rw [decode_muid h, muidOf, h, opSel_opCode]
    rfl

/-- Every legal code is the code of an instruction. -/
theorem exists_decodes {r : Request} (h : LegalCode r.op) : ∃ i, Decodes r i := by
  obtain ⟨c, b, hb, hop⟩ := exists_opCode_of_legalCode h
  by_cases hc : c = .muid
  · subst hc
    rcases mem_selectorsOf_muid.mp hb with rfl | rfl | rfl | rfl | rfl
    · exact ⟨_, .generateMuid hop⟩
    · exact ⟨_, .putMuid hop⟩
    · exact ⟨_, .getMuid hop⟩
    · exact ⟨_, .putMuidWithPosition hop⟩
    · exact ⟨_, .getMuidWithPosition hop⟩
  · obtain ⟨k, hk⟩ := (mem_selectorsOf_message hc).mp hb
    obtain rfl := subId_of_ofSubId hk
    cases c with
    | is => exact ⟨_, .is k hop⟩
    | get => exact ⟨_, .get k hop⟩
    | put => exact ⟨_, .put k hop⟩
    | muid => exact absurd rfl hc

theorem mem_of_messageOf {b : Byte} {f : Kind → Instr} {i : Instr} (h : messageOf b f = .ok i) :
    b ∈ subIdValues := by
  unfold messageOf at h
  split at h
  · next k hk => exact mem_subIdValues.mpr ⟨k, hk⟩
  · cases h

theorem mem_of_muidOf {r : Request} {i : Instr} (h : muidOf r = .ok i) : opSel r.op ∈ selectorsOf .muid := by
  by_contra hsel
  simp only [mem_selectorsOf_muid, not_or] at hsel
  simp only [muidOf, hsel, if_false] at h
  cases h

/-- A request that decodes has a legal code. -/
theorem legalCode_of_decode {r : Request} {i : Instr} (h : decode r = .ok i) : LegalCode r.op := by
  rw [legalCode_iff]
  unfold decode at h
  split at h
  · next hrsv =>
    refine ⟨hrsv, ?_⟩
    split at h
    · next hc => exact hc ▸ mem_of_messageOf h
    · next hc => exact hc ▸ mem_of_messageOf h
    · next hc => exact hc ▸ mem_of_messageOf h
    · next hc => exact hc ▸ mem_of_muidOf h
  · cases h

/-- What the decoder accepts, and as which instruction. -/
theorem decode_eq_ok {r : Request} {i : Instr} : decode r = .ok i ↔ Decodes r i := by
  refine ⟨fun h => ?_, Decodes.decode_eq⟩
  obtain ⟨j, hj⟩ := exists_decodes (legalCode_of_decode h)
  obtain rfl : j = i := Except.ok.inj (hj.decode_eq.symm.trans h)
  exact hj

theorem decode_error_of_not_legalCode {r : Request} (h : ¬ LegalCode r.op) : ∃ e, decode r = .error e := by
  cases hd : decode r with
  | ok i => exact absurd (legalCode_of_decode hd) h
  | error e => exact ⟨e, rfl⟩

/-! ## Decode and encode agree -/

/-- The request the encoder gives an instruction carries its code, and its operands on their ports. -/
theorem decodes_encode (i : Instr) : Decodes (encode i) i := by
  rcases instr_shape i with ⟨len, k, rfl⟩ | ⟨len, k, rfl⟩ | ⟨len, a, k, rfl⟩ | rfl | ⟨m, rfl⟩ | rfl |
    ⟨p, m, rfl⟩ | ⟨p, rfl⟩
  · rw [encode_isOf]
    exact .is k rfl
  · rw [encode_getOf]
    exact .get k rfl
  · have h := Decodes.put k (encode_putOf_op len a k)
    rwa [putOf_encode] at h
  · exact .generateMuid rfl
  · exact .putMuid rfl
  · exact .getMuid rfl
  · exact .putMuidWithPosition rfl
  · exact .getMuidWithPosition rfl

/-- Settles O4, class by class: the encoder puts every operand on the port the decoder reads it from. -/
theorem decodeOfEncodeIsTheInstruction : Obligations.DecodeOfEncodeIsTheInstruction :=
  fun i => (decodes_encode i).decode_eq

theorem Decodes.encode_op {r : Request} {i : Instr} (h : Decodes r i) : (encode i).op = r.op := by
  cases h with
  | is k h => rw [encode_isOf_op, h]
  | get k h => rw [encode_getOf_op, h]
  | put k h => rw [encode_putOf_op, h]
  | generateMuid h | putMuid h | getMuid h | putMuidWithPosition h | getMuidWithPosition h => rw [h]; rfl

/-- Settles O5: an accepted request has the code of its instruction, which is the code the encoder gives. -/
theorem encodeOfDecodeHasTheSameCode : Obligations.EncodeOfDecodeHasTheSameCode :=
  fun _ i h => ⟨(decode_eq_ok.mp h).encode_op, decodeOfEncodeIsTheInstruction i⟩

/-! ## The legal codes, listed -/

/-- The legal request codes, class by class (R93). -/
def legalCodes : List Half :=
  [OpClass.is, .get, .put, .muid].flatMap fun c => (selectorsOf c).map (opCode c)

theorem selectorsOf_nodup (c : OpClass) : (selectorsOf c).Nodup := by cases c <;> decide

theorem legalCodes_nodup : legalCodes.Nodup := by
  refine List.nodup_flatMap.mpr ⟨fun c _ => ?_, ?_⟩
  · exact (selectorsOf_nodup c).map fun _ _ h => (opCode_inj.mp h).2
  · refine (by decide : [OpClass.is, .get, .put, .muid].Nodup).imp fun hcd op hc hd => ?_
    obtain ⟨b, -, rfl⟩ := List.mem_map.mp hc
    obtain ⟨b', -, h⟩ := List.mem_map.mp hd
    exact hcd (opCode_inj.mp h).1.symm

theorem mem_legalCodes {op : Half} : op ∈ legalCodes ↔ LegalCode op := by
  simp only [legalCodes, List.mem_flatMap, List.mem_map]
  constructor
  · rintro ⟨c, -, b, hb, rfl⟩
    exact legalCode_opCode.mpr hb
  · intro h
    obtain ⟨c, b, hb, rfl⟩ := exists_opCode_of_legalCode h
    exact ⟨c, by cases c <;> decide, b, hb, rfl⟩

/-- Settles O3: the decoder accepts the listed codes, and a step answers every other with `ILLEGAL_REQUEST`. -/
theorem requestDecodingIsTotal : Obligations.RequestDecodingIsTotal := by
  refine ⟨fun r => ⟨fun ⟨_, h⟩ => legalCode_of_decode h, fun h => ?_⟩,
    ⟨legalCodes, legalCodes_nodup, rfl, fun _ => mem_legalCodes⟩, fun s rest r hp h => ?_⟩
  · obtain ⟨i, hi⟩ := exists_decodes h
    exact ⟨i, hi.decode_eq⟩
  · obtain ⟨e, he⟩ := decode_error_of_not_legalCode h
    exact step_request_illegal hp he

/-- Settles O6: each written code is put together from the class and the Sub-ID#2 or selector of its instruction. -/
theorem writtenOutCodesDecode : Obligations.WrittenOutCodesDecode := by
  intro len pos muid a
  refine ⟨?_, ?_, ?_, ?_, ?_, ?_, ?_⟩
  · exact Decodes.decode_eq (.is .discovery rfl)
  · exact Decodes.decode_eq (.get .setProtocolType rfl)
  · exact Decodes.decode_eq (.get .profile rfl)
  · exact Decodes.decode_eq (.is .getPropertyData rfl)
  · exact Decodes.decode_eq (.put .endOfMessageReport rfl)
  · exact Decodes.decode_eq (.generateMuid rfl)
  · exact Decodes.decode_eq (.putMuidWithPosition rfl)

/-! ## The Sub-ID#2 map -/

/-- Settles O7: the two columns are the model's tables read row by row. -/
theorem subIdMapOfTheKinds : Obligations.SubIdMapOfTheKinds := ⟨rfl, mem_kindAll⟩

/-- An `is_` with `len` inside the buffer answers the flag of `HeaderMatches` and changes nothing else (R156). -/
theorem exec_isOf_inside {len : Word} {s : State} (h : len.toNat ≤ s.cap.val) (k : Kind) :
    exec (isOf len k) s = .next (s.withRsp (Response.flagged (headerMatches k len.toNat s.mem.read))) := by
  rw [exec_isOf, isKind, if_neg (by omega)]
  rfl

theorem subId_of_headerMatches {k : Kind} {len : Nat} {rd : Nat → Byte} (h : headerMatches k len rd = true) :
    rd 7 = k.subId := by
  obtain ⟨-, -, -, -, h7⟩ := headerMatches_iff.mp h
  exact h7

/-- An `is_` that answers 1 has found the Sub-ID#2 of its kind at address 7. -/
theorem subId_of_flag {len : Word} {k : Kind} {s t : State} (ht : exec (isOf len k) s = .next t)
    (hf : t.rsp.flag = some true) : s.mem.read 7 = k.subId := by
  rw [exec_isOf] at ht
  rcases isKind_next ht with ⟨_, rfl⟩ | ⟨_, rfl⟩
  · cases hf
  · exact subId_of_headerMatches (Option.some.inj hf)

theorem headerMatches_of_reserved {k : Kind} {len : Nat} {rd : Nat → Byte} (h : rd 7 ∉ subIdValues) :
    headerMatches k len rd = false := by
  rw [← Bool.not_eq_true]
  exact fun hm => h (mem_subIdValues.mpr ⟨k, by rw [subId_of_headerMatches hm, ofSubId_subId]⟩)

/-- Settles O8: an `is_` answers 1 only on the Sub-ID#2 of its kind, and a message code is legal only with one. -/
theorem reservedSubIdsBelongToNoKind : Obligations.ReservedSubIdsBelongToNoKind := by
  refine ⟨by decide +kernel, fun b hb => ⟨fun k len s h7 hlen => ?_, ?_, ?_, ?_⟩⟩
  · rw [exec_isOf_inside hlen, headerMatches_of_reserved (h7 ▸ hb)]
    rfl
  all_goals exact fun h => hb (legalCode_opCode.mp h)

/-- Settles O9: both requests have found their kind's Sub-ID#2 at address 7 of the same memory. -/
theorem subIdSpaceIsAPartition : Obligations.SubIdSpaceIsAPartition := by
  refine ⟨selectorsOf_nodup .is, rfl, mem_kindAll, ?_⟩
  intro j k len len' s s' t t' hmem ht ht' hf hf'
  refine subId_inj ?_
  rw [← subId_of_flag ht hf, hmem, subId_of_flag ht' hf']

/-! ## The classifier -/

theorem flagged_flag (b : Bool) : (Response.flagged b).flag = some b := rfl

/-- A run of `is_` requests with `len` inside the buffer finds the first kind whose header matches, and keeps the
memory and the mark. -/
theorem classifyFrom_inside {len : Word} (ks : List Kind) {s : State} (h : len.toNat ≤ s.cap.val) :
    ∃ t, classifyFrom len ks s = some (ks.find? (headerMatches · len.toNat s.mem.read), t) ∧
      t.mem = s.mem ∧ t.faultMark = s.faultMark := by
  induction ks generalizing s with
  | nil => exact ⟨s, rfl, rfl, rfl⟩
  | cons k ks ih =>
    obtain ⟨t, ht, hmem, hmark⟩ :=
      ih (s := s.withRsp (Response.flagged (headerMatches k len.toNat s.mem.read))) h
    refine ⟨t, ?_, hmem, hmark⟩
    simp only [classifyFrom, exec_isOf_inside h, ht, List.find?_cons, State.withRsp_mem, State.withRsp_rsp,
      flagged_flag, Option.some.injEq]
    cases headerMatches k len.toNat s.mem.read <;> rfl

/-- The header matches at most one kind, so the first match is the only one (R98). -/
theorem find?_headerMatches_eq_some {len : Nat} {rd : Nat → Byte} {k : Kind} :
    Kind.all.find? (headerMatches · len rd) = some k ↔ headerMatches k len rd = true := by
  refine ⟨List.find?_some (p := (headerMatches · len rd)), fun hk => ?_⟩
  cases hf : Kind.all.find? (headerMatches · len rd) with
  | none => exact absurd hk (List.find?_eq_none.mp hf k (mem_kindAll k))
  | some j =>
    have hj : headerMatches j len rd = true := List.find?_some (p := (headerMatches · len rd)) hf
    rw [subId_inj ((subId_of_headerMatches hj).symm.trans (subId_of_headerMatches hk))]

theorem find?_headerMatches_eq_none {len : Nat} {rd : Nat → Byte} :
    Kind.all.find? (headerMatches · len rd) = none ↔ ∀ k, headerMatches k len rd = false := by
  simp [List.find?_eq_none, mem_kindAll]

/-- An `is_` with `len` inside the buffer answers the flag `b` exactly when `HeaderMatches` is `b`. -/
theorem exists_flag_iff {len : Word} {s : State} (h : len.toNat ≤ s.cap.val) (k : Kind) (b : Bool) :
    (∃ u, exec (isOf len k) s = .next u ∧ u.rsp.flag = some b) ↔ headerMatches k len.toNat s.mem.read = b := by
  simp [exec_isOf_inside h, flagged_flag]

/-- Settles O54: the first kind whose request answers 1 is the only one. -/
theorem classifyFindsTheOneKind : Obligations.ClassifyFindsTheOneKind := by
  refine ⟨fun len => ?_, fun len s hlen => ?_⟩
  · simp only [classifySteps, encode_isOf]
  · obtain ⟨t, ht, hmem, hmark⟩ := classifyFrom_inside Kind.all hlen
    refine ⟨_, t, ht, hmem, hmark, fun k => ?_, ?_⟩
    · rw [exists_flag_iff hlen, find?_headerMatches_eq_some]
    · simp only [exists_flag_iff hlen, find?_headerMatches_eq_none]

/-! ## Fields on the wire -/

/-- A list is its count at its width, most significant byte first, and its records (R99, R151). -/
theorem emitField_records (w : CountWidth) (rs : List (List Byte)) :
    emitField (.records w rs) = bigEndian (countSize w) rs.length ++ rs.flatten := by
  rw [emitField, beCount_eq_bigEndian]

theorem emitField_records_length (w : CountWidth) {k : Nat} {rs : List (List Byte)} (h : ∀ r ∈ rs, r.length = k) :
    (emitField (.records w rs)).length = countSize w + k * rs.length := by
  rw [emitField_records, List.length_append, bigEndian_length, flatten_length_of_forall h]

/-- Settles O35, row by row of R99. -/
theorem fieldTypesOnTheWire : Obligations.FieldTypesOnTheWire := by
  refine ⟨fun _ => rfl, fun v => ⟨rfl, be16_eq_bigEndian v⟩, fun v => ⟨rfl, be32_eq_bigEndian v⟩, fun _ => rfl,
    fun _ => rfl, fun k rs h => ⟨?_, ?_, ?_⟩, fun _ => rfl⟩
  · exact ⟨emitField_records .w8 rs, emitField_records_length .w8 h⟩
  · exact ⟨emitField_records .w16 rs, emitField_records_length .w16 h⟩
  · exact ⟨emitField_records .w32 rs, emitField_records_length .w32 h⟩

/-! ## Reading fields -/

/-- The first byte is the most significant one (R103): the digits in base 256 of the number read are its bytes. -/
theorem ofBe16_toNat (b0 b1 : Byte) : (ofBe16 b0 b1).toNat = b0.toNat * 256 + b1.toNat := by
  have hv := (ofBe16 b0 b1).isLt
  have hbytes := be16_eq_bigEndian (ofBe16 b0 b1)
  simp only [be16_ofBe16, bigEndian, List.cons.injEq, ← BitVec.toNat_inj, BitVec.toNat_ofNat] at hbytes
  omega

theorem ofBe32_toNat (b0 b1 b2 b3 : Byte) :
    (ofBe32 b0 b1 b2 b3).toNat = b0.toNat * 256 ^ 3 + b1.toNat * 256 ^ 2 + b2.toNat * 256 + b3.toNat := by
  have hv := (ofBe32 b0 b1 b2 b3).isLt
  have hbytes := be32_eq_bigEndian (ofBe32 b0 b1 b2 b3)
  simp only [be32_ofBe32, bigEndian, List.cons.injEq, ← BitVec.toNat_inj, BitVec.toNat_ofNat] at hbytes
  omega

theorem countSize_eq (w : CountWidth) : countSize w = countBits w / 8 := by cases w <;> rfl

/-- Settles O36: the parser reads exactly the wire forms, and those of a list are its count and its records. -/
theorem integersAndListsDecode : Obligations.IntegersAndListsDecode := by
  refine ⟨fun rd p b0 b1 h0 h1 => ?_, fun rd p b0 b1 b2 b3 h0 h1 h2 h3 => ?_, ?_, fun rd p k q w v h => ?_⟩
  · have hr : Reads rd p [b0, b1] := by simp [reads_cons, h0, h1]
    exact ⟨_, parseField_eq_some.mpr ⟨_, ⟨b0, b1, rfl, rfl⟩, hr, rfl⟩, ofBe16_toNat b0 b1⟩
  · have hr : Reads rd p [b0, b1, b2, b3] := by simp [reads_cons, Nat.add_assoc, h0, h1, h2, h3]
    exact ⟨_, parseField_eq_some.mpr ⟨_, ⟨b0, b1, b2, b3, rfl, rfl⟩, hr, rfl⟩, ofBe32_toNat b0 b1 b2 b3⟩
  · rintro rd p k _ w rs rfl hc hk hr
    rw [← countSize_eq] at hr ⊢
    rw [parseField_eq_some]
    refine ⟨emitField (.records w rs), ⟨rs, hk, hc, rfl, rfl⟩, ?_, ?_⟩
    · rw [emitField_records]
      exact hr
    · rw [emitField_records_length w hk, Nat.add_assoc]
  · obtain ⟨bs, ⟨rs, hk, -, hbs, rfl⟩, -, rfl⟩ := parseField_eq_some.mp h
    refine ⟨rs, rfl, hk, ?_⟩
    rw [← countSize_eq, Nat.add_assoc, ← emitField_records_length w hk, hbs, emitField]

/-! ## Message lengths -/

theorem messageLength_least {q n : Nat} (h4 : n % 4 = 0) (hq : q + 1 ≤ n) : messageLength q ≤ n := by
  unfold messageLength
  omega

theorem lengthOf_eq (k : Kind) (a : Args) : lengthOf k a = messageLength (bodyLength k a) := by
  rw [lengthOf, bodyOf_length]

/-- The last column of the table of R102. -/
theorem messageLength_bodyLength_zero (k : Kind) : messageLength (bodyLength k Args.zero) = minimumLength k := by
  cases k <;> rfl

/-- Settles O38: the length is the rounding of `q`, and a put that completes reports the length of its own body. -/
theorem messageLengthOfEveryKind : Obligations.MessageLengthOfEveryKind := by
  refine ⟨fun q => ⟨rfl, messageLength_mod q, lt_messageLength q, fun n => messageLength_least⟩,
    fun k a => ⟨bodyOf_length k a, lengthOf_eq k a⟩, messageLength_bodyLength_zero, fun len a k s t ht hs => ?_⟩
  obtain ⟨-, -, -, rfl⟩ := putOf_ok ht hs
  rw [lengthOf_eq]
  rfl

end Sys2Proof.Machine
end

section
/-! Proofs of the statements of spec/40_muid.md: the MUID packing bit by bit with its laws, and the five MUID
operations. -/

namespace Sys2Proof.Machine

/-! ## Packing, bit by bit

The bits of a wire byte are counted in `Fin 7`, those of `W3` in its low four (MUID bits 27:24) and its top three (bits
7, 15 and 23), so that a row of the tables of R135 and R136 is one of these lemmas at one number. -/

theorem muidW3_low_bit (m : Word) (r : Fin 4) : (muidW3 m).getLsbD r = m.getLsbD (24 + r) := by
  fin_cases r <;> simp [muidW3]

theorem muidW3_top_bit (m : Word) (j : Fin 3) : (muidW3 m).getLsbD (4 + j) = m.getLsbD (8 * j + 7) := by
  fin_cases j <;> simp [muidW3]

/-- `W2`, `W1` and `W0` each carry the low seven bits of a slice of the MUID. -/
theorem low_seven_bit (x : Word) (r : Fin 7) : ((x &&& 0x7F).setWidth 8).getLsbD r = x.getLsbD r := by
  fin_cases r <;> simp

theorem muidW2_bit (m : Word) (r : Fin 7) : (muidW2 m).getLsbD r = m.getLsbD (16 + r) :=
  (low_seven_bit (m >>> 16) r).trans (BitVec.getLsbD_ushiftRight m 16 r)

theorem muidW1_bit (m : Word) (r : Fin 7) : (muidW1 m).getLsbD r = m.getLsbD (8 + r) :=
  (low_seven_bit (m >>> 8) r).trans (BitVec.getLsbD_ushiftRight m 8 r)

theorem muidW0_bit (m : Word) (r : Fin 7) : (muidW0 m).getLsbD r = m.getLsbD r := low_seven_bit m r

theorem lt_0x80_iff {b : Byte} : b.toNat < 0x80 ↔ b.getLsbD 7 = false := by
  have hmsb : b.msb = b.getLsbD 7 := BitVec.msb_eq_getLsbD_last b
  rw [← hmsb, BitVec.msb_eq_false_iff_two_mul_lt]
  omega

/-- No formula of R135 reaches bit 7. -/
theorem muidWire_bit7 (m : Word) : ∀ b ∈ muidWire m, b.getLsbD 7 = false := by
  simp [muidWire, muidW3, muidW2, muidW1, muidW0]

theorem muidWire_lt (m : Word) : ∀ b ∈ muidWire m, b.toNat < 0x80 :=
  fun b hb => lt_0x80_iff.mpr (muidWire_bit7 m b hb)

/-- A value with no bit above bit 7 is kept in a byte. -/
theorem setWidth_setWidth_of_and_eq {x : Word} (h : x &&& 0xFF = x) : (x.setWidth 8).setWidth 32 = x := by
  have hlt : x.toNat < 2 ^ 8 := by
    rw [← h, BitVec.toNat_and]
    exact Nat.lt_of_le_of_lt Nat.and_le_right (by decide)
  apply BitVec.eq_of_toNat_eq
  simp only [BitVec.toNat_setWidth]
  omega

theorem setWidth_setWidth_and_0x7F (x : Word) : ((x &&& 0x7F).setWidth 8).setWidth 32 = x &&& 0x7F :=
  setWidth_setWidth_of_and_eq (BitVec.and_assoc x 0x7F 0xFF)

theorem muidW3_setWidth (m : Word) :
    (muidW3 m).setWidth 32 = ((m >>> 24) &&& 0x0F) ||| ((m &&& 0x800000) >>> 17) ||| ((m &&& 0x8000) >>> 10)
      ||| ((m &&& 0x80) >>> 3) := by
  apply setWidth_setWidth_of_and_eq
  apply BitVec.eq_of_getLsbD_eq
  intro i hi
  interval_cases i <;> simp

/-- Settles O30: each line of the statement is the lemma of its wire byte at the number of its bit. -/
theorem muidWireBits : Obligations.MuidWireBits := by
  intro m _
  have bit7 := muidWire_bit7 m
  simp only [muidWire, List.forall_mem_cons] at bit7
  obtain ⟨h3, h2, h1, h0, -⟩ := bit7
  have low := muidW3_low_bit m
  have top := muidW3_top_bit m
  have w2 := muidW2_bit m
  have w1 := muidW1_bit m
  have w0 := muidW0_bit m
  exact ⟨rfl, h3, h2, h1, h0, top 2, top 1, top 0, low 3, low 2, low 1, low 0,
    w2 6, w2 5, w2 4, w2 3, w2 2, w2 1, w2 0, w1 6, w1 5, w1 4, w1 3, w1 2, w1 1, w1 0,
    w0 6, w0 5, w0 4, w0 3, w0 2, w0 1, w0 0, muidW3_setWidth m,
    setWidth_setWidth_and_0x7F _, setWidth_setWidth_and_0x7F _, setWidth_setWidth_and_0x7F _⟩

/-! ## Unpacking, bit by bit -/

section MuidFrom

variable (w3 w2 w1 w0 : Byte)

theorem muidFrom_low_bit (r : Fin 4) : (muidFrom w3 w2 w1 w0).getLsbD (24 + r) = w3.getLsbD r := by
  fin_cases r <;> simp [muidFrom]

theorem muidFrom_top_bit (j : Fin 3) : (muidFrom w3 w2 w1 w0).getLsbD (8 * j + 7) = w3.getLsbD (4 + j) := by
  fin_cases j <;> simp [muidFrom]

theorem muidFrom_bit_w2 (r : Fin 7) : (muidFrom w3 w2 w1 w0).getLsbD (16 + r) = w2.getLsbD r := by
  fin_cases r <;> simp [muidFrom]

theorem muidFrom_bit_w1 (r : Fin 7) : (muidFrom w3 w2 w1 w0).getLsbD (8 + r) = w1.getLsbD r := by
  fin_cases r <;> simp [muidFrom]

theorem muidFrom_bit_w0 (r : Fin 7) : (muidFrom w3 w2 w1 w0).getLsbD r = w0.getLsbD r := by
  fin_cases r <;> simp [muidFrom]

end MuidFrom

/-- Under a mask without bit 7, bit 7 of a byte does not count. -/
theorem setWidth_and_0x7F_and (w : Byte) {k : Word} (hk : 0x7F &&& k = k) :
    (w &&& 0x7F).setWidth 32 &&& k = w.setWidth 32 &&& k := by
  rw [BitVec.setWidth_and, BitVec.and_assoc]
  exact congrArg _ hk

/-- Bit 7 of every wire byte is ignored (R136). -/
theorem muidFrom_and_0x7F (w3 w2 w1 w0 : Byte) :
    muidFrom (w3 &&& 0x7F) (w2 &&& 0x7F) (w1 &&& 0x7F) (w0 &&& 0x7F) = muidFrom w3 w2 w1 w0 := by
  simp (disch := decide) only [muidFrom, setWidth_and_0x7F_and]

/-- Settles O31: as O30, with the lemmas of the unpacking. -/
theorem muidFromBits : Obligations.MuidFromBits := by
  refine ⟨fun w3 w2 w1 w0 => ?_, fun m hm => muidFrom_muidWire hm⟩
  have low := muidFrom_low_bit w3 w2 w1 w0
  have top := muidFrom_top_bit w3 w2 w1 w0
  have b2 := muidFrom_bit_w2 w3 w2 w1 w0
  have b1 := muidFrom_bit_w1 w3 w2 w1 w0
  have b0 := muidFrom_bit_w0 w3 w2 w1 w0
  exact ⟨low 3, low 2, low 1, low 0, top 2, b2 6, b2 5, b2 4, b2 3, b2 2, b2 1, b2 0,
    top 1, b1 6, b1 5, b1 4, b1 3, b1 2, b1 1, b1 0, top 0, b0 6, b0 5, b0 4, b0 3, b0 2, b0 1, b0 0,
    muidFrom_lt w3 w2 w1 w0, (muidFrom_and_0x7F w3 w2 w1 w0).symm⟩

/-! ## The laws of the packing -/

/-- A byte below `0x80` is its low seven bits. -/
theorem eq_of_low_bits {b c : Byte} (hb : b.toNat < 0x80) (hc : c.toNat < 0x80)
    (h : ∀ r : Fin 7, b.getLsbD r = c.getLsbD r) : b = c := by
  apply BitVec.eq_of_getLsbD_eq
  intro i hi
  rcases Nat.lt_succ_iff_lt_or_eq.mp hi with hi | rfl
  · exact h ⟨i, hi⟩
  · rw [lt_0x80_iff.mp hb, lt_0x80_iff.mp hc]

/-- Packing undoes unpacking on four 7-bit bytes: a bit that goes up by one table comes down by the other. -/
theorem muidWire_muidFrom {w3 w2 w1 w0 : Byte} (h : ∀ b ∈ [w3, w2, w1, w0], b.toNat < 0x80) :
    muidWire (muidFrom w3 w2 w1 w0) = [w3, w2, w1, w0] := by
  have hwire := muidWire_lt (muidFrom w3 w2 w1 w0)
  simp only [muidWire, List.forall_mem_cons] at h hwire
  obtain ⟨l3, l2, l1, l0, -⟩ := h
  obtain ⟨k3, k2, k1, k0, -⟩ := hwire
  have e3 : muidW3 (muidFrom w3 w2 w1 w0) = w3 := by
    refine eq_of_low_bits k3 l3 (Fin.addCases (m := 4) (n := 3) (fun r => ?_) fun j => ?_)
    · exact (muidW3_low_bit _ r).trans (muidFrom_low_bit w3 w2 w1 w0 r)
    · exact (muidW3_top_bit _ j).trans (muidFrom_top_bit w3 w2 w1 w0 j)
  have e2 := eq_of_low_bits k2 l2 fun r => (muidW2_bit _ r).trans (muidFrom_bit_w2 w3 w2 w1 w0 r)
  have e1 := eq_of_low_bits k1 l1 fun r => (muidW1_bit _ r).trans (muidFrom_bit_w1 w3 w2 w1 w0 r)
  have e0 := eq_of_low_bits k0 l0 fun r => (muidW0_bit _ r).trans (muidFrom_bit_w0 w3 w2 w1 w0 r)
  rw [muidWire, e3, e2, e1, e0]

theorem muidWire_inj {m n : Word} (hm : m.toNat < 2 ^ 28) (hn : n.toNat < 2 ^ 28) (h : muidWire m = muidWire n) :
    m = n := by
  simp only [muidWire, List.cons.injEq] at h
  obtain ⟨h3, h2, h1, h0, -⟩ := h
  rw [← muidFrom_muidWire hm, h3, h2, h1, h0, muidFrom_muidWire hn]

/-- Settles O32: packing and unpacking are inverse to each other, each on its own range. -/
theorem muidPackingLaws : Obligations.MuidPackingLaws := by
  refine ⟨fun m n => muidWire_inj, fun m => muidFrom_muidWire, by decide, by decide, fun m _ => muidWire_lt m, ?_,
    muidFrom_lt, fun m hm => ⟨_, _, _, _, muidWire_lt m, muidFrom_muidWire hm⟩⟩
  intro w3 w2 w1 w0 v3 v2 v1 v0 h heq
  have hw : muidWire (muidFrom w3 w2 w1 w0) = [w3, w2, w1, w0] :=
    muidWire_muidFrom fun b hb => h b (List.mem_append_left [v3, v2, v1, v0] hb)
  have hv : muidWire (muidFrom v3 v2 v1 v0) = [v3, v2, v1, v0] :=
    muidWire_muidFrom fun b hb => h b (List.mem_append_right [w3, w2, w1, w0] hb)
  simpa using hw.symm.trans ((congrArg muidWire heq).trans hv)

/-! ## What each operation answers (R130 to R134)

The converses of the lemmas of Laws/Muid.lean: one equation per case. -/

theorem exec_putMuid_overflow {m : Word} (h : 2 ^ 28 ≤ m.toNat) (s : State) :
    exec (.putMuid m) s = .next (errorState s .overflowError) :=
  if_pos (by simpa [muidInRange] using h)

theorem exec_putMuid {m : Word} (h : m.toNat < 2 ^ 28) (s : State) :
    exec (.putMuid m) s =
      .next ((s.withMem (writeStream s.mem 0 (muidWire m))).withRsp (Response.ofStatus .ok)) :=
  if_neg (by simpa [muidInRange] using h)

theorem exec_getMuid (s : State) :
    exec .getMuid s = .next (s.withRsp (Response.muidIs
      (muidFrom (s.mem.read 3) (s.mem.read 2) (s.mem.read 1) (s.mem.read 0)))) := rfl

section WithPosition

variable {p m : Word} {s : State}

theorem exec_putMuidWithPosition_overflow (h : 2 ^ 28 ≤ m.toNat) :
    exec (.putMuidWithPosition p m) s = .next (errorState s .overflowError) :=
  if_pos (by simpa [muidInRange] using h)

theorem exec_putMuidWithPosition_outside (h : m.toNat < 2 ^ 28) (hp : PositionOutside s p) :
    exec (.putMuidWithPosition p m) s = .next (errorState s .capacityError) :=
  (if_neg (by simpa [muidInRange] using h)).trans (if_pos (muidOutside_iff.mpr hp))

theorem exec_putMuidWithPosition (h : m.toNat < 2 ^ 28) (hp : ¬ PositionOutside s p) :
    exec (.putMuidWithPosition p m) s =
      .next ((s.withMem (writeStream s.mem p.toNat (muidWire m))).withRsp (Response.ofStatus .ok)) := by
  rw [← writeCursor_cursorAt]
  exact (if_neg (by simpa [muidInRange] using h)).trans (if_neg (mt muidOutside_iff.mp hp))

theorem exec_getMuidWithPosition_outside (hp : PositionOutside s p) :
    exec (.getMuidWithPosition p) s = .next (errorState s .capacityError) :=
  if_pos (muidOutside_iff.mpr hp)

theorem exec_getMuidWithPosition (hp : ¬ PositionOutside s p) :
    exec (.getMuidWithPosition p) s = .next (s.withRsp (Response.muidIs
      (muidFrom (s.mem.read (addrOf p.toNat)) (s.mem.read (addrOf (p.toNat + 1)))
        (s.mem.read (addrOf (p.toNat + 2))) (s.mem.read (addrOf (p.toNat + 3)))))) := by
  rw [← readMuid_cursorAt]
  exact if_neg (mt muidOutside_iff.mp hp)

end WithPosition

/-- The converse of `position_inside`. -/
theorem not_positionOutside {p : Word} {s : State} (h : ∀ i < 4, addrOf (p.toNat + i) < s.cap.val) :
    ¬ PositionOutside s p :=
  fun ⟨i, hi, hout⟩ => Nat.not_lt.mpr hout (h i hi)

/-- The first group lies inside every buffer, since `BUF_CAP ≥ 8` (R131). -/
theorem not_positionOutside_zero (s : State) : ¬ PositionOutside s 0 := by
  refine not_positionOutside fun i hi => ?_
  have hin : addrOf (0 + i) < 4 * 1 := (addrOf_lt _ 1).mpr (by omega)
  exact Nat.lt_of_lt_of_le hin (Nat.le_trans (by decide) s.cap.lower)

/-- R131: `put_muid` is `put_muid_with_position` at position 0, whatever the MUID. -/
theorem exec_putMuid_eq_position_zero (m : Word) (s : State) :
    exec (.putMuid m) s = exec (.putMuidWithPosition 0 m) s := by
  rcases Nat.lt_or_ge m.toNat (2 ^ 28) with h | h
  · exact (exec_putMuid h s).trans (exec_putMuidWithPosition h (not_positionOutside_zero s)).symm
  · exact (exec_putMuid_overflow h s).trans (exec_putMuidWithPosition_overflow h).symm

/-! ## The four bytes written, read back -/

theorem read_written_muid (mem : Memory) (p : Nat) (m : Word) :
    (writeStream mem p (muidWire m)).read (addrOf p) = muidW3 m ∧
    (writeStream mem p (muidWire m)).read (addrOf (p + 1)) = muidW2 m ∧
    (writeStream mem p (muidWire m)).read (addrOf (p + 2)) = muidW1 m ∧
    (writeStream mem p (muidWire m)).read (addrOf (p + 3)) = muidW0 m := by
  have h := read_writeStream mem (muidWire m) p
  exact ⟨h 0 (by simp), h 1 (by simp), h 2 (by simp), h 3 (by simp)⟩

theorem muidFrom_read_written (mem : Memory) (p : Nat) {m : Word} (h : m.toNat < 2 ^ 28) :
    muidFrom ((writeStream mem p (muidWire m)).read (addrOf p))
      ((writeStream mem p (muidWire m)).read (addrOf (p + 1)))
      ((writeStream mem p (muidWire m)).read (addrOf (p + 2)))
      ((writeStream mem p (muidWire m)).read (addrOf (p + 3))) = m := by
  obtain ⟨h3, h2, h1, h0⟩ := read_written_muid mem p m
  rw [h3, h2, h1, h0, muidFrom_muidWire h]

/-! ## The five operations -/

/-- Settles O25: the draw is the response, and 28 bits wide. -/
theorem generateMuidReturnsADraw : Obligations.GenerateMuidReturnsADraw :=
  ⟨rfl, fun s => ⟨rfl, draw_lt s.draws⟩⟩

/-- Settles O26: the first group is the stream positions 0 to 3. -/
theorem putMuidWritesTheFirstGroup : Obligations.PutMuidWritesTheFirstGroup := by
  refine ⟨fun _ => rfl, fun m s => ⟨fun h => exec_putMuid_overflow h s, fun h => ⟨_, exec_putMuid h s, ?_⟩,
    exec_putMuid_eq_position_zero m s⟩⟩
  obtain ⟨h3, h2, h1, h0⟩ := read_written_muid s.mem 0 m
  refine ⟨h3, h2, h1, h0, fun a => read_writeStream_groups_other (bs := muidWire m) (k := 1) rfl s.mem, ?_⟩
  rintro rfl
  exact ⟨h0, h1, h2, h3⟩

/-- Settles O27: after a put, the four bytes read are those of the put. -/
theorem getMuidReadsTheFirstGroup : Obligations.GetMuidReadsTheFirstGroup := by
  refine ⟨rfl, fun s => ⟨exec_getMuid s, ?_, ?_⟩⟩
  · intro b hb h3 h2 h1 h0
    have hall : ∀ b ∈ [(0xFF : Byte), 0x7F], muidFrom b b b b = 0x0FFFFFFF := by decide
    rw [h3, h2, h1, h0, hall b hb]
  · intro m t hm ht
    rcases putMuid_next ht with ⟨hbig, _⟩ | ⟨_, rfl⟩
    · omega
    · exact ⟨_, exec_getMuid _, congrArg some (muidFrom_read_written s.mem 0 hm)⟩

/-- Settles O28, case by case of R508. -/
theorem putMuidWithPositionWritesFourPositions : Obligations.PutMuidWithPositionWritesFourPositions := by
  refine ⟨fun _ _ => rfl, fun pos m s => ⟨exec_putMuidWithPosition_overflow, exec_putMuidWithPosition_outside,
    fun hm hin => ?_⟩⟩
  obtain ⟨h3, h2, h1, h0⟩ := read_written_muid s.mem pos.toNat m
  refine ⟨_, exec_putMuidWithPosition hm (not_positionOutside hin), h3, h2, h1, h0,
    fun a => read_writeStream_other s.mem (muidWire m), ?_⟩
  rintro rfl rfl
  exact ⟨h3, h2, h1, h0⟩

/-- Settles O29: a put that completed has shown the position inside, and the get reads the bytes it wrote. -/
theorem getMuidWithPositionReadsFourPositions : Obligations.GetMuidWithPositionReadsFourPositions := by
  refine ⟨fun _ => rfl, fun pos s => ⟨exec_getMuidWithPosition_outside,
    fun hin => exec_getMuidWithPosition (not_positionOutside hin), fun m t ht hs => ?_⟩⟩
  obtain ⟨hm, hpos, rfl⟩ := putMuidWithPosition_ok ht hs
  exact ⟨_, exec_getMuidWithPosition hpos, rfl, congrArg some (muidFrom_read_written s.mem pos.toNat hm)⟩

end Sys2Proof.Machine
end

section
/-! Proofs of the statements of spec/41_framing.md: a get recovers what a put wrote, the length laws, what a get looks
at and what it does not, which inputs each operation has, and the messages that do not parse. -/

namespace Sys2Proof.Machine

/-! ## The message a put writes is one a get reads -/

/-- The operand `v` is named as the field `f`, and its stream bytes are a wire form of that field which parses back
to it (R99, R151). -/
def WritesField (f : FieldName × FieldType) (v : FieldName × FieldValue) : Prop :=
  f.1 = v.1 ∧ WireField f.2 (emitField v.2) v.2

theorem wireFields_emitFields {lay : List (FieldName × FieldType)} {vs : List (FieldName × FieldValue)}
    (h : List.Forall₂ WritesField lay vs) : WireFields lay (emitFields (vs.map Prod.snd)) vs := by
  induction h with
  | nil => exact ⟨rfl, rfl⟩
  | @cons f v _ _ hf _ ih =>
    obtain ⟨name, ty⟩ := f
    obtain ⟨_, v⟩ := v
    obtain ⟨rfl, hv⟩ := hf
    exact ⟨_, _, _, _, rfl, rfl, hv, ih⟩

/-- Kind by kind, the operands of R100 are those of the layout rule: in range, each one's bytes parse back to it. -/
theorem payloadOperands_writesField {a : Args} {k : Kind}
    (h : ((payloadOperands a k).map Prod.snd).all fieldInRange = true) :
    List.Forall₂ WritesField (layout k) (payloadOperands a k) := by
  cases k <;>
    simp [payloadOperands, fieldInRange, muidInRange_iff] at h <;>
    simp [layout, payloadOperands, WritesField, wireField_u8, wireField_u16, wireField_u32, wireField_bytes,
      wireField_muid, wireField_pattern, wireField_records, wireField_byteRecords, h]

/-- The four wire bytes of a MUID (R135). -/
def muidBytes (m : Word) : Bytes 4 := #v[muidW3 m, muidW2 m, muidW1 m, muidW0 m]

theorem muidOfWire_muidBytes {m : Word} (h : m.toNat < 2 ^ 28) : muidOfWire (muidBytes m) = m :=
  muidFrom_muidWire h

/-- The header a put writes, as a get receives it. -/
def writtenHeader (k : Kind) (a : Args) : WireHeader :=
  { deviceId := a.deviceId, version := a.version, source := muidBytes a.source
    destination := muidBytes ((destinationOperand a k).getD broadcastMuid) }

theorem writtenHeader_record {k : Kind} {a : Args}
    (h : headerInRange a.header (destinationOperand a k) = true) :
    (writtenHeader k a).record (payloadOperands a k) = recordOf k a := by
  obtain ⟨hsrc, hdst⟩ := headerInRange_iff.mp h
  have hd : ((destinationOperand a k).getD broadcastMuid).toNat < 2 ^ 28 := by
    unfold destinationOperand
    cases hb : broadcastKind k with
    | true => exact (by decide : broadcastMuid.toNat < 2 ^ 28)
    | false => exact hdst hb
  simp only [WireHeader.record, writtenHeader, recordOf, muidOfWire_muidBytes hsrc, muidOfWire_muidBytes hd]

/-- With operands in range, the message of a put is a message of its kind, and it stands for the operands (R159). -/
theorem wireMessage_bodyOf {k : Kind} {a : Args} (h : ¬ PutOverflow k a) :
    WireMessage k (bodyOf k a) (recordOf k a) := by
  obtain ⟨hh, hp⟩ := inRange_iff.mpr h
  exact ⟨writtenHeader k a, _, _, wireFields_emitFields (payloadOperands_writesField hp), rfl,
    (writtenHeader_record hh).symm⟩

/-- A put that completes leaves its message in the buffer, within any `len` from `L` up. -/
theorem messageHeld_of_putDone {s t : State} {body : List Byte} {n : Nat} (h : PutDone s t body)
    (hn : messageLength body.length ≤ n) : MessageHeld t.mem n body :=
  ⟨h.message, hn, h.terminator⟩

theorem putOf_putDone {len : Word} {a : Args} {k : Kind} {s t : State} (ht : exec (putOf len a k) s = .next t)
    (hs : t.rsp.status = some .ok) : PutDone s t (bodyOf k a) := by
  obtain ⟨-, -, -, rfl⟩ := putOf_ok ht hs
  exact putDone_of_write s (bodyOf k a)

/-! ## What a held message answers -/

/-- A get finds the message the buffer holds within `len` (R157). -/
theorem exec_getOf_held {len : Word} {k : Kind} {s : State} {body : List Byte} {r : Record}
    (hlen : len.toNat ≤ s.cap.val) (hw : WireMessage k body r) (hm : MessageHeld s.mem len.toNat body) :
    exec (getOf len k) s = .next (s.withRsp (Response.got (messageLength body.length) r)) := by
  obtain ⟨-, hheld, -⟩ := getMessage_eq k len s
  rw [exec_getOf, hheld hlen body r hw hm]

/-- A get that finds no message of its kind within `len` fails to parse (R157). -/
theorem exec_getOf_not_held {len : Word} {k : Kind} {s : State} (hlen : len.toNat ≤ s.cap.val)
    (hn : ∀ body r, WireMessage k body r → ¬ MessageHeld s.mem len.toNat body) :
    exec (getOf len k) s = .next (s.withRsp Response.parseFailed) := by
  obtain ⟨-, -, hnone⟩ := getMessage_eq k len s
  rw [exec_getOf, hnone hlen hn]

theorem headerMatches_of_parseMessage {k : Kind} {len : Nat} {m : Memory} {x : Record × Nat}
    (h : parseMessage k len m = some x) : headerMatches k len m.read = true := by
  unfold parseMessage at h
  split at h
  · assumption
  · cases h

/-- Where a message of kind `k` is held, `HeaderMatches` holds for `k` and for no other kind (R98, R156). -/
theorem headerMatches_of_held {k : Kind} {len : Nat} {m : Memory} {body : List Byte} {r : Record}
    (hw : WireMessage k body r) (hm : MessageHeld m len body) (j : Kind) :
    headerMatches j len m.read = decide (j = k) := by
  have hk := headerMatches_of_parseMessage (parseMessage_eq_some.mpr ⟨body, hw, hm, rfl⟩)
  rw [Bool.eq_iff_iff, decide_eq_true_iff]
  constructor
  · exact fun hj => subId_inj ((subId_of_headerMatches hj).symm.trans (subId_of_headerMatches hk))
  · rintro rfl
    exact hk

/-- Settles O49: the message a put wrote is a message of its kind that stands for its operands, and stays held. -/
theorem putThenGetRoundTrip : Obligations.PutThenGetRoundTrip := by
  intro k a len0 n s t ht hs hL hn
  have hdone := putOf_putDone ht hs
  obtain ⟨-, -, hrange, -⟩ := putOf_ok ht hs
  obtain ⟨hcap, -⟩ := hdone.rest
  have hw := wireMessage_bodyOf hrange
  have hm : MessageHeld t.mem n.toNat (bodyOf k a) := messageHeld_of_putDone hdone hL
  rw [← hcap] at hn
  refine ⟨exec_getOf_held hn hw hm, fun j => ?_⟩
  rw [exec_isOf_inside hn, headerMatches_of_held hw hm]
  rfl

/-! ## The length laws -/

theorem sixteen_le_messageLength {q : Nat} (h : 14 ≤ q) : 16 ≤ messageLength q := messageLength_mono h

theorem fourteen_le_bodyOf_length (k : Kind) (a : Args) : 14 ≤ (bodyOf k a).length := by
  rw [bodyOf, List.length_append, emitHeader_length]
  exact Nat.le_add_right ..

/-- Settles O50: both counts are a `messageLength` of at least the header, and its terminator stands in the buffer. -/
theorem lengthLaws : Obligations.LengthLaws := by
  refine ⟨fun len a k s t ht hs => ?_, fun len k s t ht hs => ?_⟩
  · obtain ⟨hlen, hL, -, heq⟩ := putOf_ok ht hs
    refine ⟨_, by rw [heq]; rfl, ?_⟩
    rw [toNat_count (hL.trans hlen)]
    exact ⟨messageLength_mod _, sixteen_le_messageLength (fourteen_le_bodyOf_length k a),
      (putOf_putDone ht hs).terminator, fun _ => putOf_read_other ht hs⟩
  · obtain ⟨hlen, body, r, hw, ⟨-, hL, hterm⟩, rfl⟩ := getOf_ok ht hs
    rw [← messageLength_eq] at hL hterm
    refine ⟨_, rfl, ?_⟩
    rw [toNat_count (hL.trans hlen)]
    exact ⟨messageLength_mod _, sixteen_le_messageLength (wireMessage_length hw), hL, hterm⟩

/-! ## What a get does not check -/

/-- Parsing the whole of a byte sequence says that it is a wire form of the fields. -/
theorem wireFields_of_parseFields {lay : List (FieldName × FieldType)} {bs : List Byte}
    {vs : List (FieldName × FieldValue)} (h : parseFields (fun p => bs[p]?) 0 lay = some (vs, bs.length)) :
    WireFields lay bs vs := by
  obtain ⟨bs', hw, hr, hlen⟩ := parseFields_eq_some.mp h
  rw [Nat.zero_add] at hlen
  have hbs : bs = bs' := List.ext_getElem hlen fun i hi hi' => by
    have hread : bs[0 + i]? = some bs'[i] := hr i hi'
    rw [Nat.zero_add, List.getElem?_eq_getElem hi] at hread
    exact Option.some.inj hread
  rwa [hbs]

theorem muidOfWire_map_and_0x7F (b : Bytes 4) : muidOfWire (b.map (fun x => x &&& 0x7F)) = muidOfWire b := by
  simp only [muidOfWire, Vector.getElem_map, muidFrom_and_0x7F]

/-- Settles O51: a received header is any bytes, and the test pattern is compared, not required. -/
theorem getChecksNothingElse : Obligations.GetChecksNothingElse := by
  refine ⟨fun k w bs vs len s hp hlen hm => ?_, muidOfWire_map_and_0x7F, fun rd p t ht => ?_⟩
  · have hw : WireMessage k (w.bytes k.subId ++ bs) (w.record vs) :=
      ⟨w, bs, vs, wireFields_of_parseFields hp, rfl, rfl⟩
    rw [exec_getOf_held hlen hw hm, List.length_append, wireHeader_length]
    rfl
  · have hr : Reads rd p t.toList := fun i hi => by simpa using ht i (by simpa using hi)
    have hpat : FieldValue.pattern (decide (t.toList = testPattern)) = .pattern (t.toList == testPattern) := by
      rw [beq_eq_decide]
    exact parseField_eq_some.mpr ⟨t.toList, ⟨t.length_toList, hpat⟩, hr, by rw [t.length_toList]⟩

/-! ## Which inputs an operation has -/

/-- `HeaderMatches` reads below `len` only: it looks at nothing when fewer than 8 bytes are valid (R156). -/
theorem headerMatches_congr {k : Kind} {len : Nat} {rd rd' : Nat → Byte} (h : ∀ x < len, rd x = rd' x) :
    headerMatches k len rd = headerMatches k len rd' := by
  by_cases h8 : 8 ≤ len
  · simp only [headerMatches, h 3 (by omega), h 2 (by omega), h 0 (by omega), h 7 (by omega)]
  · simp only [headerMatches, h8, decide_false, Bool.false_and]

theorem parseMessage_congr {k : Kind} {len : Nat} {m m' : Memory} (h : ∀ x < len, m.read x = m'.read x) :
    parseMessage k len m = parseMessage k len m' := by
  unfold parseMessage
  rw [headerMatches_congr h, streamRead_congr h]

/-- The response to a get, as a function of its inputs (R161). -/
theorem getMessage_rsp {k : Kind} {len : Word} {s t : State} (ht : getMessage k len s = .next t) :
    t.rsp = if s.cap.val < len.toNat then Response.ofStatus .capacityError
      else ((parseMessage k len.toNat s.mem).map fun x => Response.got x.2 x.1).getD Response.parseFailed := by
  rcases getMessage_next ht with ⟨hcap, rfl⟩ | ⟨hcap, rfl, hp⟩ | ⟨hcap, body, r, hw, hm, rfl⟩
  · rw [if_pos hcap]; rfl
  · rw [if_neg (Nat.not_lt.mpr hcap), hp]; rfl
  · rw [if_neg (Nat.not_lt.mpr hcap), parseMessage_eq_some.mpr ⟨body, hw, hm, rfl⟩]; rfl

/-- The response to an is, as a function of its inputs (R161). -/
theorem isKind_rsp {k : Kind} {len : Word} {s t : State} (ht : isKind k len s = .next t) :
    t.rsp = if s.cap.val < len.toNat then Response.ofStatus .capacityError
      else Response.flagged (headerMatches k len.toNat s.mem.read) := by
  rcases isKind_next ht with ⟨hcap, rfl⟩ | ⟨hcap, rfl⟩
  · rw [if_pos hcap]; rfl
  · rw [if_neg (Nat.not_lt.mpr hcap)]; rfl

/-- The response to a put, as a function of its inputs: the memory is not among them (R161). -/
theorem rsp_of_putOutcome {inRange : Prop} [Decidable inRange] {len : Word} {body : List Byte} {s t : State}
    (h : PutOutcome inRange len body s (.next t)) :
    t.rsp = if inRange then
        if s.cap.val < len.toNat ∨ len.toNat < messageLength body.length then Response.ofStatus .capacityError
        else Response.put (messageLength body.length)
      else Response.ofStatus .overflowError := by
  obtain ⟨hover, hfull, hdone⟩ := h
  split
  · next hin =>
    split
    · next hc => rw [Host.Outcome.next.inj (hfull hin hc), errorState_rsp]
    · next hc =>
      obtain ⟨hcap, hlen⟩ := not_or.mp hc
      obtain ⟨u, hu, hput⟩ := hdone hin (Nat.not_lt.mp hcap) (Nat.not_lt.mp hlen)
      rw [Host.Outcome.next.inj hu]
      exact hput.response
  · next hin => rw [Host.Outcome.next.inj (hover hin), errorState_rsp]

theorem putMessage_rsp_congr {k : Kind} {len : Word} {h : Header} {d : Option Word} {payload : List FieldValue}
    {s s' t t' : State} (hcap : s.cap = s'.cap) (ht : putMessage k len h d payload s = .next t)
    (ht' : putMessage k len h d payload s' = .next t') : t.rsp = t'.rsp := by
  rw [rsp_of_putOutcome (ht ▸ putMessage_outcome k len h d payload s),
    rsp_of_putOutcome (ht' ▸ putMessage_outcome k len h d payload s'), hcap]

/-! ## No operation but `generate_muid` reads or changes the count of draws -/

/-- The state with another count of draws. -/
def State.withDraws (s : State) (d : Nat) : State := { s with draws := d }

@[simp] theorem State.withDraws_draws (s : State) (d : Nat) : (s.withDraws d).draws = d := rfl

/-- The outcome with its next state, if it has one, changed by `f`. -/
def mapNext (f : State → State) : Host.Outcome State Fault Refusal → Host.Outcome State Fault Refusal
  | .next s => .next (f s)
  | .fault r => .fault r
  | .refused r => .refused r

/-- The operation neither reads nor changes the count of draws: on another count it has the same outcome, with that
count. -/
def IgnoresDraws (f : State → Host.Outcome State Fault Refusal) : Prop :=
  ∀ s d, f (s.withDraws d) = mapNext (·.withDraws d) (f s)

theorem IgnoresDraws.draws_eq {f : State → Host.Outcome State Fault Refusal} (hf : IgnoresDraws f) {s t : State}
    (ht : f s = .next t) : t.draws = s.draws := by
  have hself : f s = mapNext (·.withDraws s.draws) (f s) := hf s s.draws
  rw [ht, mapNext] at hself
  have hdraws : t = t.withDraws s.draws := Host.Outcome.next.inj hself
  exact (congrArg State.draws hdraws).trans (State.withDraws_draws t s.draws)

theorem IgnoresDraws.next_withDraws {f : State → Host.Outcome State Fault Refusal} (hf : IgnoresDraws f) {s t : State}
    (ht : f s = .next t) (d : Nat) : f (s.withDraws d) = .next (t.withDraws d) := by
  rw [hf, ht, mapNext]

theorem ignoresDraws_raise (e : Status) : IgnoresDraws (raise e) := fun _ _ => rfl

theorem ignoresDraws_respond {r : State → Response} {u : State → State} (hr : ∀ s d, r (s.withDraws d) = r s)
    (hu : ∀ s d, u (s.withDraws d) = (u s).withDraws d) : IgnoresDraws fun s => respond (r s) (u s) := by
  intro s d
  simp only [hr, hu]
  rfl

theorem ignoresDraws_ite {c : State → Prop} [DecidablePred c] {f g : State → Host.Outcome State Fault Refusal}
    (hc : ∀ s d, c (s.withDraws d) ↔ c s) (hf : IgnoresDraws f) (hg : IgnoresDraws g) :
    IgnoresDraws fun s => if c s then f s else g s := by
  intro s d
  by_cases h : c s
  · simp only [if_pos h, if_pos ((hc s d).mpr h), hf s d]
  · simp only [if_neg h, if_neg (mt (hc s d).mp h), hg s d]

theorem ignoresDraws_isKind (k : Kind) (len : Word) : IgnoresDraws (isKind k len) :=
  ignoresDraws_ite (fun _ _ => .rfl) (ignoresDraws_raise _) (ignoresDraws_respond (fun _ _ => rfl) fun _ _ => rfl)

theorem ignoresDraws_getMessage (k : Kind) (len : Word) : IgnoresDraws (getMessage k len) := by
  refine ignoresDraws_ite (fun _ _ => .rfl) (ignoresDraws_raise _) fun s d => ?_
  simp only [State.withDraws]
  split <;> rfl

theorem ignoresDraws_putMessage (k : Kind) (len : Word) (h : Header) (dst : Option Word) (payload : List FieldValue) :
    IgnoresDraws (putMessage k len h dst payload) :=
  ignoresDraws_ite (fun _ _ => .rfl) (ignoresDraws_raise _) <|
    ignoresDraws_ite (fun _ _ => .rfl) (ignoresDraws_raise _) <|
      ignoresDraws_ite (fun _ _ => .rfl) (ignoresDraws_raise _) <|
        ignoresDraws_respond (fun _ _ => rfl) fun _ _ => rfl

theorem ignoresDraws_execPutMuid (m : Word) : IgnoresDraws (execPutMuid m) :=
  ignoresDraws_ite (fun _ _ => .rfl) (ignoresDraws_raise _) <|
    ignoresDraws_respond (fun _ _ => rfl) fun _ _ => rfl

theorem ignoresDraws_execPutMuidWithPosition (p m : Word) : IgnoresDraws (execPutMuidWithPosition p m) :=
  ignoresDraws_ite (fun _ _ => .rfl) (ignoresDraws_raise _) <|
    ignoresDraws_ite (fun _ _ => .rfl) (ignoresDraws_raise _) <|
      ignoresDraws_respond (fun _ _ => rfl) fun _ _ => rfl

theorem ignoresDraws_execGetMuidWithPosition (p : Word) : IgnoresDraws (execGetMuidWithPosition p) :=
  ignoresDraws_ite (fun _ _ => .rfl) (ignoresDraws_raise _) <|
    ignoresDraws_respond (fun _ _ => rfl) fun _ _ => rfl

/-- Only `generate_muid` draws (R38, R161). -/
theorem ignoresDraws_exec {i : Instr} (hi : i ≠ .generateMuid) : IgnoresDraws (exec i) := by
  rcases instr_shape i with ⟨len, k, rfl⟩ | ⟨len, k, rfl⟩ | ⟨len, a, k, rfl⟩ | rfl | ⟨m, rfl⟩ | rfl |
    ⟨p, m, rfl⟩ | ⟨p, rfl⟩
  · rw [funext (exec_isOf len k)]
    exact ignoresDraws_isKind k len
  · rw [funext (exec_getOf len k)]
    exact ignoresDraws_getMessage k len
  · rw [funext (exec_putOf len a k)]
    exact ignoresDraws_putMessage k len _ _ _
  · exact absurd rfl hi
  · exact ignoresDraws_execPutMuid m
  · exact fun _ _ => rfl
  · exact ignoresDraws_execPutMuidWithPosition p m
  · exact ignoresDraws_execGetMuidWithPosition p

/-- Settles O52: each response is a function of the inputs named, and the draws are an input of one operation. -/
theorem operationsAreFunctionsOfTheirInputs : Obligations.OperationsAreFunctionsOfTheirInputs := by
  refine ⟨fun len k s s' t t' hcap hmem => ⟨fun ht ht' => ?_, fun ht ht' => ?_⟩,
    fun len a k s s' t t' hcap ht ht' => ⟨?_, fun hs x hx => ?_⟩, fun i s t d hi ht => ?_⟩
  · rw [exec_getOf] at ht ht'
    rw [getMessage_rsp ht, getMessage_rsp ht', hcap, parseMessage_congr hmem]
  · rw [exec_isOf] at ht ht'
    rw [isKind_rsp ht, isKind_rsp ht', hcap, headerMatches_congr hmem]
  · rw [exec_putOf] at ht ht'
    exact putMessage_rsp_congr hcap ht ht'
  · exact (putOf_read_congr ht hs hcap.symm ht' hx).symm
  · exact ⟨(ignoresDraws_exec hi).draws_eq ht, (ignoresDraws_exec hi).next_withDraws ht d⟩

/-! ## Messages that do not parse -/

/-- The fewest bytes a field of this type takes: a list may be empty (R99). -/
def leastSize : FieldType → Nat
  | .u8 => 1
  | .u16 => 2
  | .u32 => 4
  | .bytes n => n
  | .muid => 4
  | .list w _ => countSize w
  | .pattern48 => 48

theorem leastSize_le_length {ty : FieldType} {bs : List Byte} {v : FieldValue} (h : WireField ty bs v) :
    leastSize ty ≤ bs.length := by
  cases ty with
  | u8 => obtain ⟨_, rfl, -⟩ := h; exact le_rfl
  | u16 => obtain ⟨_, _, rfl, -⟩ := h; exact le_rfl
  | u32 => obtain ⟨_, _, _, _, rfl, -⟩ := h; exact le_rfl
  | bytes n => obtain ⟨hl, -⟩ := h; exact hl.ge
  | muid => obtain ⟨_, _, _, _, rfl, -⟩ := h; exact le_rfl
  | list w n =>
    obtain ⟨rs, -, -, rfl, -⟩ := h
    rw [List.length_append, beCount_length]
    exact Nat.le_add_right ..
  | pattern48 => obtain ⟨hl, -⟩ := h; exact hl.ge

/-- The fewest payload bytes a layout takes. -/
def leastPayload (lay : List (FieldName × FieldType)) : Nat := (lay.map fun f => leastSize f.2).sum

theorem leastPayload_le_length {lay : List (FieldName × FieldType)} {bs : List Byte}
    {vs : List (FieldName × FieldValue)} (h : WireFields lay bs vs) : leastPayload lay ≤ bs.length := by
  induction lay generalizing bs vs with
  | nil => exact Nat.zero_le _
  | cons f rest ih =>
    obtain ⟨b1, b2, v, vs', rfl, -, h1, h2⟩ := h
    rw [leastPayload, List.map_cons, List.sum_cons, List.length_append]
    exact Nat.add_le_add (leastSize_le_length h1) (ih h2)

/-- The last column of the table of R102 is the length with the least payload. -/
theorem messageLength_leastPayload (k : Kind) : messageLength (14 + leastPayload (layout k)) = minimumLength k := by
  cases k <;> rfl

theorem minimumLength_le {k : Kind} {body : List Byte} {r : Record} (h : WireMessage k body r) :
    minimumLength k ≤ messageLength body.length := by
  obtain ⟨w, bs, vs, hw, rfl, -⟩ := h
  rw [← messageLength_leastPayload, List.length_append, wireHeader_length]
  exact messageLength_mono (Nat.add_le_add_left (leastPayload_le_length hw) 14)

/-- Two messages of one kind at the start of one stream have the same length: the parser reads both (R155). -/
theorem wireMessage_length_unique {rd : Nat → Option Byte} {k : Kind} {body body' : List Byte} {r r' : Record}
    (hw : WireMessage k body r) (hw' : WireMessage k body' r') (hr : Reads rd 0 body) (hr' : Reads rd 0 body') :
    body.length = body'.length := by
  obtain ⟨w, bs, vs, hf, rfl, -⟩ := hw
  obtain ⟨w', bs', vs', hf', rfl, -⟩ := hw'
  rw [reads_append, wireHeader_length] at hr hr'
  obtain ⟨-, hr⟩ := hr
  obtain ⟨-, hr'⟩ := hr'
  have hp : parseFields rd (0 + 14) (layout k) = some (vs, 0 + 14 + bs.length) :=
    parseFields_eq_some.mpr ⟨bs, hf, hr, rfl⟩
  have hp' : parseFields rd (0 + 14) (layout k) = some (vs', 0 + 14 + bs'.length) :=
    parseFields_eq_some.mpr ⟨bs', hf', hr', rfl⟩
  obtain ⟨-, hq⟩ := Prod.mk.inj (Option.some.inj (hp.symm.trans hp'))
  rw [List.length_append, List.length_append, wireHeader_length, wireHeader_length]
  omega

/-- The terminator stands past the payload, so a write there leaves the message's bytes as they were. -/
theorem streamBegins_write_terminator {m : Memory} {body : List Byte} (h : StreamBegins m body) (b : Byte) :
    StreamBegins (m.write (messageLength body.length - 4) b) body := by
  intro p hp
  have hL := lt_messageLength body.length
  rw [messageLength_eq] at hL ⊢
  rw [← addrOf_last _ (by omega), Memory.read_write_other _ _ (by rw [Ne, addrOf_inj]; omega), h p hp]

/-- With its terminator overwritten, the message is no longer held, and neither is another one of its kind. -/
theorem not_held_of_write_terminator {k : Kind} {len : Nat} {m : Memory} {body : List Byte} {r : Record} {b : Byte}
    (hw : WireMessage k body r) (hm : MessageHeld m len body) (hb : b ≠ 0xF7) {body' : List Byte} {r' : Record}
    (hw' : WireMessage k body' r') :
    ¬ MessageHeld (m.write (messageLength body.length - 4) b) len body' := by
  obtain ⟨hs, hl, -⟩ := hm
  rintro ⟨hs', hl', hterm'⟩
  have hlen := wireMessage_length_unique hw hw' ((reads_stream hl).mpr (streamBegins_write_terminator hs b))
    ((reads_stream hl').mpr hs')
  rw [← messageLength_eq, ← hlen, Memory.read_write_same] at hterm'
  exact hb hterm'

/-- Settles O53: no message of the kind is that short, and none is held once its terminator is overwritten. -/
theorem truncatedMessagesFailToParse : Obligations.TruncatedMessagesFailToParse := by
  refine fun len k s hcap => ⟨fun hmin => ?_, fun t c b ht hs hc hb => ?_⟩
  · refine exec_getOf_not_held hcap fun body r hw hm => ?_
    obtain ⟨-, hl, -⟩ := hm
    exact absurd ((minimumLength_le hw).trans hl) (Nat.not_le.mpr hmin)
  · obtain ⟨-, body, r, hw, hm, rfl⟩ := getOf_ok ht hs
    have ⟨_, hl, _⟩ := hm
    obtain rfl : BitVec.ofNat 32 (messageLength body.length) = c := Option.some.inj hc
    have hcount : (BitVec.ofNat 32 (messageLength body.length)).toNat = messageLength body.length :=
      toNat_count (hl.trans hcap)
    rw [hcount]
    exact exec_getOf_not_held (s := s.withMem _) hcap fun _ _ => not_held_of_write_terminator hw hm hb

end Sys2Proof.Machine
end

section
/-! Proofs of the statements of spec/42_discovery.md: the rules of an is, a put and a get for an instruction of any
kind, the wire forms of fields, payloads and messages by the values they stand for, and the five management kinds. -/

namespace Sys2Proof.Machine

/-! ## The rule of an is -/

/-- The rule holds of every kind: two that answer 1 have found the same byte at address 7 (R98, R156). -/
theorem isRule_isOf (len : Word) (k : Kind) (s : State) :
    IsRule (opCode .is k.subId) k.subId (isOf len k) len s := by
  refine ⟨encode_isOf_op len k, exec_isOf len k s ▸ isKind_outcome k len s, fun j len' t u ht hft hu hfu => ?_⟩
  rw [subId_inj ((subId_of_flag hu hfu).symm.trans (subId_of_flag ht hft))]

/-- Settles O20: each of the five is the `is_` of its kind. -/
theorem managementPredicatesMatchTheHeader : Obligations.ManagementPredicatesMatchTheHeader :=
  ⟨fun len => isRule_isOf len .discovery, fun len => isRule_isOf len .discoveryReply,
    fun len => isRule_isOf len .invalidateMuid, fun len => isRule_isOf len .ack, fun len => isRule_isOf len .nak⟩

/-! ## The rule of a put -/

theorem headerBytes_length (sid : Byte) (h : Header) (d : Word) : (headerBytes sid h d).length = 14 := rfl

theorem headerInRange_none {h : Header} : headerInRange h none = true ↔ h.source.toNat < 2 ^ 28 := by
  simp [headerInRange, muidInRange_iff]

theorem headerInRange_some {h : Header} {d : Word} :
    headerInRange h (some d) = true ↔ h.source.toNat < 2 ^ 28 ∧ d.toNat < 2 ^ 28 := by
  simp [headerInRange, muidInRange_iff]

/-- An instruction that is the generic put of these operands keeps the rule, when `body` is what they are emitted as
and `inRange` says that they are in range (R154). -/
theorem putRule_of_putMessage {i : Instr} {k : Kind} {len : Word} {hdr : Header} {d : Option Word}
    {payload : List FieldValue} {s : State} {op : Half} {q : Nat} {inRange : Prop} {body : List Byte}
    (hexec : exec i s = putMessage k len hdr d payload s) (hop : (encode i).op = op) (hq : body.length = q)
    (hin : headerInRange hdr d = true ∧ payload.all fieldInRange = true ↔ inRange)
    (hbody : emitHeader k hdr d ++ emitFields payload = body) : PutRule op q inRange body i len s := by
  refine ⟨hop, hq, ?_⟩
  rw [hexec, ← hin, ← hbody]
  exact putMessage_outcome k len hdr d payload s

/-- Settles O10: kind by kind, the length, the ranges and the emitted bytes of the operands. -/
theorem managementPutsWriteTheMessage : Obligations.ManagementPutsWriteTheMessage := by
  refine ⟨fun _ _ _ _ _ _ _ _ _ => putRule_of_putMessage (k := .discovery) rfl rfl ?discoveryLength ?discoveryRange
      ?discoveryBody,
    fun _ _ _ _ _ _ _ _ _ _ => putRule_of_putMessage (k := .discoveryReply) rfl rfl ?replyLength ?replyRange
      ?replyBody,
    fun _ _ _ _ => putRule_of_putMessage (k := .invalidateMuid) rfl rfl rfl ?muidRange rfl,
    fun _ _ _ _ _ _ _ _ _ => putRule_of_putMessage (k := .ack) rfl rfl ?ackLength ?ackRange ?ackBody,
    fun _ _ _ _ => putRule_of_putMessage (k := .nak) rfl rfl rfl ?nakRange rfl⟩
  case discoveryLength | replyLength => simp [headerBytes_length, bigEndian_length]
  case discoveryRange => simp [headerInRange_none, fieldInRange]
  case replyRange => simp [headerInRange_some, fieldInRange]
  case discoveryBody | replyBody =>
    simp [emitHeader_none, emitHeader_some, Kind.subId, broadcastMuid, emitFields_cons, emitFields_nil, emitField,
      be16_eq_bigEndian, be32_eq_bigEndian]
  case muidRange => simp [headerInRange_none, fieldInRange, muidInRange_iff]
  case ackLength =>
    simp only [List.length_append, headerBytes_length, bigEndian_length, List.length_singleton, Vector.length_toList]
  case ackRange => simp [headerInRange_some, fieldInRange, countBits, and_assoc]
  case ackBody =>
    simp [emitHeader_some, Kind.subId, emitFields_cons, emitFields_nil, emitField, beCount_eq_bigEndian, countSize]
  case nakRange => simp [headerInRange_some]

/-! ## Wire forms and the values they stand for -/

/-- The wire forms `R` relates to a value are the `wire x` of the valid `x : A`, and `wire x` stands for `value x`. -/
def Forms {A V : Type} (R : List Byte → V → Prop) (valid : A → Prop) (wire : A → List Byte) (value : A → V) : Prop :=
  ∀ bs v, R bs v ↔ ∃ x, valid x ∧ bs = wire x ∧ v = value x

theorem Forms.intro {A V : Type} {R : List Byte → V → Prop} {valid : A → Prop} {wire : A → List Byte} {value : A → V}
    (sound : ∀ x, valid x → R (wire x) (value x))
    (complete : ∀ bs v, R bs v → ∃ x, valid x ∧ bs = wire x ∧ v = value x) : Forms R valid wire value :=
  fun bs v => ⟨complete bs v, by rintro ⟨x, hx, rfl, rfl⟩; exact sound x hx⟩

/-! ### Fields -/

theorem forms_u8 : Forms (WireField .u8) (fun _ => True) (fun x : Byte => [x]) .u8 :=
  .intro (fun x _ => wireField_u8 x) fun _ _ ⟨x, hbs, hv⟩ => ⟨x, trivial, hbs, hv⟩

theorem forms_u16 : Forms (WireField .u16) (fun _ => True) (fun x : Half => bigEndian 2 x.toNat) .u16 := by
  simp only [← be16_eq_bigEndian]
  refine .intro (fun x _ => wireField_u16 x) ?_
  rintro _ _ ⟨b0, b1, rfl, rfl⟩
  exact ⟨_, trivial, (be16_ofBe16 b0 b1).symm, rfl⟩

theorem forms_u32 : Forms (WireField .u32) (fun _ => True) (fun x : Word => bigEndian 4 x.toNat) .u32 := by
  simp only [← be32_eq_bigEndian]
  refine .intro (fun x _ => wireField_u32 x) ?_
  rintro _ _ ⟨b0, b1, b2, b3, rfl, rfl⟩
  exact ⟨_, trivial, (be32_ofBe32 b0 b1 b2 b3).symm, rfl⟩

theorem forms_bytes (n : Nat) : Forms (WireField (.bytes n)) (fun _ => True) Vector.toList
    fun x : Bytes n => .bytes x.toList := by
  refine .intro (fun x _ => wireField_bytes x) ?_
  rintro bs _ ⟨hlen, rfl⟩
  exact ⟨⟨⟨bs⟩, hlen⟩, trivial, rfl, rfl⟩

/-- Any four bytes are a MUID (R136, R158). -/
theorem forms_muid : Forms (WireField .muid) (fun _ => True) Vector.toList
    fun x : Bytes 4 => .muid (muidOfWire x) := by
  refine .intro ?_ ?_
  · rintro ⟨⟨x⟩, hx⟩ -
    match x, hx with
    | [w3, w2, w1, w0], _ => exact ⟨w3, w2, w1, w0, rfl, rfl⟩
  · rintro _ _ ⟨w3, w2, w1, w0, rfl, rfl⟩
    exact ⟨#v[w3, w2, w1, w0], trivial, rfl, rfl⟩

/-- A list of single bytes is its count and the bytes (R99). -/
theorem forms_byteList (w : CountWidth) : Forms (WireField (.list w 1)) (fun x => x.length < 2 ^ countBits w)
    (fun x : List Byte => bigEndian (countSize w) x.length ++ x) fun x => .records w (x.map fun b => [b]) := by
  have hemit (x : List Byte) : emitField (.records w (recordsOfBytes x)) = bigEndian (countSize w) x.length ++ x := by
    rw [emitField_records, recordsOfBytes_length, recordsOfBytes_flatten]
  refine .intro (fun x hx => hemit x ▸ wireField_byteRecords w x hx) ?_
  rintro _ _ ⟨rs, hone, hlt, rfl, rfl⟩
  obtain ⟨x, rfl⟩ := exists_recordsOfBytes hone
  rw [recordsOfBytes_length] at hlt
  exact ⟨x, hlt, hemit x, rfl⟩

/-! ### Payloads and messages -/

section Combine

variable {A B : Type} {valid : A → Prop} {wire : A → List Byte} {valid' : B → Prop} {wire' : B → List Byte}

theorem Forms.last {name : FieldName} {ty : FieldType} {value : A → FieldValue}
    (h : Forms (WireField ty) valid wire value) :
    Forms (WireFields [(name, ty)]) valid wire fun x => [(name, value x)] := by
  refine .intro (fun x hx => ?_) ?_
  · exact ⟨_, [], _, _, (List.append_nil _).symm, rfl, (h _ _).mpr ⟨x, hx, rfl, rfl⟩, rfl, rfl⟩
  · rintro _ _ ⟨b, _, v, _, rfl, rfl, hv, rfl, rfl⟩
    obtain ⟨x, hx, rfl, rfl⟩ := (h b v).mp hv
    exact ⟨x, hx, List.append_nil _, rfl⟩

theorem Forms.cons {name : FieldName} {ty : FieldType} {rest : List (FieldName × FieldType)} {value : A → FieldValue}
    {values : B → List (FieldName × FieldValue)} (h : Forms (WireField ty) valid wire value)
    (hrest : Forms (WireFields rest) valid' wire' values) :
    Forms (WireFields ((name, ty) :: rest)) (fun x : A × B => valid x.1 ∧ valid' x.2)
      (fun x => wire x.1 ++ wire' x.2) fun x => (name, value x.1) :: values x.2 := by
  refine .intro (fun ⟨x, y⟩ ⟨hx, hy⟩ => ?_) ?_
  · exact ⟨_, _, _, _, rfl, rfl, (h _ _).mpr ⟨x, hx, rfl, rfl⟩, (hrest _ _).mpr ⟨y, hy, rfl, rfl⟩⟩
  · rintro _ _ ⟨b, bs, v, vs, rfl, rfl, hv, hvs⟩
    obtain ⟨x, hx, rfl, rfl⟩ := (h b v).mp hv
    obtain ⟨y, hy, rfl, rfl⟩ := (hrest bs vs).mp hvs
    exact ⟨(x, y), ⟨hx, hy⟩, rfl, rfl⟩

/-- A message is any header of its kind and a payload (R150, R158). -/
theorem forms_message (k : Kind) {values : A → List (FieldName × FieldValue)}
    (h : Forms (WireFields (layout k)) valid wire values) :
    Forms (WireMessage k) (fun x : WireHeader × A => valid x.2) (fun x => x.1.bytes k.subId ++ wire x.2)
      fun x => x.1.record (values x.2) := by
  refine .intro (fun ⟨w, x⟩ hx => ?_) ?_
  · exact ⟨w, _, _, (h _ _).mpr ⟨x, hx, rfl, rfl⟩, rfl, rfl⟩
  · rintro _ _ ⟨w, bs, vs, hvs, rfl, rfl⟩
    obtain ⟨x, hx, rfl, rfl⟩ := (h bs vs).mp hvs
    exact ⟨(w, x), hx, rfl, rfl⟩

end Combine

/-- A kind without payload fields has a message per header. -/
theorem forms_headerOnly (k : Kind) (h : layout k = []) : Forms (WireMessage k) (fun _ => True)
    (fun w : WireHeader => w.bytes k.subId) fun w => w.record [] := by
  unfold WireMessage
  rw [h]
  refine .intro (fun w _ => ⟨w, [], [], ⟨rfl, rfl⟩, (List.append_nil _).symm, rfl⟩) ?_
  rintro _ _ ⟨w, _, _, ⟨rfl, rfl⟩, rfl, rfl⟩
  exact ⟨w, trivial, List.append_nil _, rfl⟩

/-! ## The rule of a get -/

/-- A get keeps the rule when `valid'` and `wire'` say which messages of its kind there are, and `result` which record
each stands for (R157). -/
theorem getRule_getOf {W : Type} {k : Kind} {valid valid' : W → Prop} {wire wire' : W → List Byte}
    {result : W → Record} (h : Forms (WireMessage k) valid wire result) (hvalid : ∀ x, valid x ↔ valid' x)
    (hwire : ∀ x, wire x = wire' x) (len : Word) (s : State) :
    GetRule (opCode .get k.subId) valid' wire' result (getOf len k) len s := by
  obtain rfl : valid = valid' := funext fun x => propext (hvalid x)
  obtain rfl : wire = wire' := funext hwire
  obtain ⟨hcap, hheld, hnone⟩ := getMessage_eq k len s
  rw [← exec_getOf] at hcap hheld hnone
  refine ⟨encode_getOf_op len k, hcap, fun w hw hlen hm => ?_, fun hlen hn => ?_⟩
  · exact hheld hlen _ _ ((h _ _).mpr ⟨w, hw, rfl, rfl⟩) hm
  · refine hnone hlen fun body r hbody => ?_
    obtain ⟨w, hw, rfl, -⟩ := (h body r).mp hbody
    exact hn w hw

/-- Settles O15: the forms of each kind's messages, put together from its layout field by field. -/
theorem managementGetsDecodeTheMessage : Obligations.ManagementGetsDecodeTheMessage := by
  have identity : Forms (WireFields (layout .discovery)) _ _ _ :=
    (forms_bytes 3).cons <| forms_u16.cons <| forms_u16.cons <| (forms_bytes 4).cons <| forms_u8.cons forms_u32.last
  have ack : Forms (WireFields (layout .ack)) _ _ _ :=
    forms_u8.cons <| forms_u8.cons <| forms_u8.cons <| (forms_bytes 5).cons (forms_byteList .w16).last
  refine ⟨getRule_getOf (forms_message .discovery identity) ?discoveryValid ?discoveryWire,
    getRule_getOf (forms_message .discoveryReply identity) ?replyValid ?replyWire,
    getRule_getOf (forms_message .invalidateMuid forms_muid.last) (fun _ => .rfl) fun _ => rfl,
    getRule_getOf (forms_message .ack ack) ?ackValid ?ackWire,
    getRule_getOf (forms_headerOnly .nak rfl) (fun _ => .rfl) fun _ => rfl⟩
  case discoveryValid | replyValid => simp
  case discoveryWire | replyWire => simp [Kind.subId]
  case ackValid => simp [countBits]
  case ackWire => simp [Kind.subId, countSize]

end Sys2Proof.Machine
end

section
/-! Proofs of the statements of spec/43_protocol.md: lists of records and the test pattern on the wire, and the six
protocol negotiation kinds. -/

namespace Sys2Proof.Machine

/-! ## The classifiers -/

/-- Settles O21: each of the six is the `is_` of its kind. -/
theorem protocolPredicatesMatchTheHeader : Obligations.ProtocolPredicatesMatchTheHeader :=
  ⟨fun len => isRule_isOf len .initiateProtocolNegotiation,
    fun len => isRule_isOf len .initiateProtocolNegotiationReply, fun len => isRule_isOf len .setProtocolType,
    fun len => isRule_isOf len .confirmProtocolType, fun len => isRule_isOf len .confirmProtocolTypeReply,
    fun len => isRule_isOf len .confirmProtocolTypeEstablished⟩

/-! ## The puts -/

theorem flatten_toList_length {n : Nat} (rs : List (Bytes n)) :
    (rs.map Vector.toList).flatten.length = n * rs.length := recordsOf_flatten_length rs

/-- Settles O11: kind by kind, the length, the ranges and the emitted bytes of the operands. -/
theorem protocolPutsWriteTheMessage : Obligations.ProtocolPutsWriteTheMessage := by
  refine ⟨fun _ _ _ _ _ _ => putRule_of_putMessage (k := .initiateProtocolNegotiation) rfl rfl ?initiateLength
      ?initiateRange ?initiateBody,
    fun _ _ _ _ _ _ => putRule_of_putMessage (k := .initiateProtocolNegotiationReply) rfl rfl ?replyLength
      ?replyRange ?replyBody,
    fun _ _ _ _ _ _ => putRule_of_putMessage (k := .setProtocolType) rfl rfl ?typeLength ?typeRange ?typeBody,
    fun _ _ _ _ _ => putRule_of_putMessage (k := .confirmProtocolType) rfl rfl rfl ?confirmRange rfl,
    fun _ _ _ _ _ => putRule_of_putMessage (k := .confirmProtocolTypeReply) rfl rfl rfl ?confirmReplyRange rfl,
    fun _ _ _ _ _ => putRule_of_putMessage (k := .confirmProtocolTypeEstablished) rfl rfl rfl ?establishedRange rfl⟩
  case initiateLength | replyLength =>
    simp only [List.length_append, headerBytes_length, List.length_singleton, bigEndian_length, flatten_toList_length]
  case initiateRange | replyRange => simp [headerInRange_some, fieldInRange, countBits, and_assoc]
  case initiateBody | replyBody =>
    simp [emitHeader_some, Kind.subId, emitFields_cons, emitFields_nil, emitField, beCount_eq_bigEndian, countSize,
      recordsOf]
  case typeLength => simp [headerBytes_length]
  case typeBody => simp [emitHeader_some, Kind.subId, emitFields_cons, emitFields_nil, emitField]
  case typeRange | confirmRange | confirmReplyRange | establishedRange => simp [headerInRange_some, fieldInRange]

/-! ## The test pattern -/

/-- A confirm put writes the test pattern after the 14 header bytes and the authority level (R271, R275). -/
theorem bodyOf_confirm {k : Kind} (hk : k = .confirmProtocolType ∨ k = .confirmProtocolTypeReply) (a : Args) :
    bodyOf k a = emitHeader k a.header (some a.destination) ++ [a.authorityLevel] ++ testPattern := by
  rcases hk with rfl | rfl <;> rfl

theorem testPattern_getElem (i : Nat) (h : i < testPattern.length) : testPattern[i] = BitVec.ofNat 8 i := by
  simp [testPattern]

/-- Settles O37: the pattern begins at stream position 15 of the message that a completed confirm put leaves. -/
theorem testPatternIsWrittenByTheConfirmPuts : Obligations.TestPatternIsWrittenByTheConfirmPuts := by
  refine ⟨testPattern_length, fun i hi => ?_, fun k len a s t hk ht hs i hi => ?_⟩
  · exact List.getElem?_eq_some_iff.mpr ⟨hi, testPattern_getElem i hi⟩
  · have hbegins := (putOf_putDone ht hs).message
    rw [bodyOf_confirm hk] at hbegins
    have hlen : (emitHeader k a.header (some a.destination) ++ [a.authorityLevel]).length = 15 := rfl
    rw [hbegins (15 + i) (by rw [List.length_append, hlen]; exact Nat.add_lt_add_left hi 15),
      List.getElem_append_right (by rw [hlen]; exact Nat.le_add_right ..)]
    simp only [hlen, Nat.add_sub_cancel_left, testPattern_getElem]

/-! ## The gets -/

/-- A list of fixed-size records is emitted as its count and the records' bytes (R99, R151). -/
theorem emitField_recordsOf {n : Nat} (w : CountWidth) (rs : List (Bytes n)) :
    emitField (.records w (recordsOf rs)) =
      bigEndian (countSize w) rs.length ++ (rs.map Vector.toList).flatten := by
  rw [emitField_records, recordsOf_length]
  rfl

/-- A list of fixed-size records is its count and the records (R99). -/
theorem forms_records (w : CountWidth) (n : Nat) : Forms (WireField (.list w n)) (fun x => x.length < 2 ^ countBits w)
    (fun x : List (Bytes n) => bigEndian (countSize w) x.length ++ (x.map Vector.toList).flatten)
    fun x => .records w (x.map Vector.toList) := by
  refine .intro (fun x hx => emitField_recordsOf w x ▸ wireField_records w x hx) ?_
  rintro _ _ ⟨rs, hsize, hlt, rfl, rfl⟩
  obtain ⟨x, rfl⟩ := exists_recordsOf hsize
  rw [recordsOf_length] at hlt
  exact ⟨x, hlt, emitField_recordsOf w x, rfl⟩

/-- Any 48 bytes are a test pattern field, whose value is whether they are the pattern (R151, R155). -/
theorem forms_pattern : Forms (WireField .pattern48) (fun _ => True) Vector.toList
    fun x : Bytes 48 => .pattern (decide (x.toList = testPattern)) := by
  simp only [← beq_eq_decide]
  refine .intro (fun x _ => ⟨x.length_toList, rfl⟩) ?_
  rintro bs _ ⟨hlen, rfl⟩
  exact ⟨⟨⟨bs⟩, hlen⟩, trivial, rfl, rfl⟩

/-- Settles O16: the forms of each kind's messages, put together from its layout field by field. -/
theorem protocolGetsDecodeTheMessage : Obligations.ProtocolGetsDecodeTheMessage := by
  have initiate : Forms (WireFields (layout .initiateProtocolNegotiation)) _ _ _ :=
    forms_u8.cons (forms_records .w8 5).last
  have setType : Forms (WireFields (layout .setProtocolType)) _ _ _ := forms_u8.cons (forms_bytes 5).last
  have confirm : Forms (WireFields (layout .confirmProtocolType)) _ _ _ := forms_u8.cons forms_pattern.last
  refine ⟨getRule_getOf (forms_message .initiateProtocolNegotiation initiate) ?initiateValid ?initiateWire,
    getRule_getOf (forms_message .initiateProtocolNegotiationReply initiate) ?replyValid ?replyWire,
    getRule_getOf (forms_message .setProtocolType setType) ?typeValid ?typeWire,
    getRule_getOf (forms_message .confirmProtocolType confirm) ?confirmValid ?confirmWire,
    getRule_getOf (forms_message .confirmProtocolTypeReply confirm) ?confirmReplyValid ?confirmReplyWire,
    getRule_getOf (forms_message .confirmProtocolTypeEstablished forms_u8.last) (fun _ => .rfl) fun _ => rfl⟩
  case initiateValid | replyValid => simp [countBits]
  case initiateWire | replyWire => simp [Kind.subId, countSize]
  case typeValid | confirmValid | confirmReplyValid => simp
  case typeWire | confirmWire | confirmReplyWire => simp [Kind.subId]

end Sys2Proof.Machine
end

section
/-! Proofs of the statements of spec/44_profile.md: the classifiers, the puts and the gets of the seven profile
kinds. -/

namespace Sys2Proof.Machine

/-! ## The classifiers -/

/-- Settles O22: each of the seven is the `is_` of its kind. -/
theorem profilePredicatesMatchTheHeader : Obligations.ProfilePredicatesMatchTheHeader :=
  ⟨fun len => isRule_isOf len .profile, fun len => isRule_isOf len .profileReply,
    fun len => isRule_isOf len .profileEnabledReport, fun len => isRule_isOf len .profileDisabledReport,
    fun len => isRule_isOf len .profileAdded, fun len => isRule_isOf len .profileRemoved,
    fun len => isRule_isOf len .profileSpecificData⟩

/-! ## The puts -/

/-- Settles O12: kind by kind, the length, the ranges and the emitted bytes of the operands. -/
theorem profilePutsWriteTheMessage : Obligations.ProfilePutsWriteTheMessage := by
  refine ⟨fun _ _ _ _ => putRule_of_putMessage (k := .profile) rfl rfl rfl ?profileRange rfl,
    fun _ _ _ _ _ _ => putRule_of_putMessage (k := .profileReply) rfl rfl ?replyLength ?replyRange ?replyBody,
    fun _ _ _ _ _ => putRule_of_putMessage (k := .profileEnabledReport) rfl rfl ?enabledLength ?enabledRange
      ?enabledBody,
    fun _ _ _ _ _ => putRule_of_putMessage (k := .profileDisabledReport) rfl rfl ?disabledLength ?disabledRange
      ?disabledBody,
    fun _ _ _ _ => putRule_of_putMessage (k := .profileAdded) rfl rfl ?addedLength ?addedRange ?addedBody,
    fun _ _ _ _ => putRule_of_putMessage (k := .profileRemoved) rfl rfl ?removedLength ?removedRange ?removedBody,
    fun _ _ _ _ _ _ => putRule_of_putMessage (k := .profileSpecificData) rfl rfl ?dataLength ?dataRange ?dataBody⟩
  case replyLength =>
    simp only [List.length_append, headerBytes_length, bigEndian_length, flatten_toList_length]
    omega
  case dataLength =>
    simp only [List.length_append, headerBytes_length, bigEndian_length, Vector.length_toList]
  case enabledLength | disabledLength | addedLength | removedLength =>
    simp [headerBytes_length, bigEndian_length]
  case profileRange => simp [headerInRange_some]
  case replyRange | dataRange => simp [headerInRange_some, fieldInRange, countBits, and_assoc]
  case enabledRange | disabledRange | addedRange | removedRange => simp [headerInRange_none, fieldInRange]
  case replyBody | dataBody =>
    simp [emitHeader_some, Kind.subId, emitFields_cons, emitFields_nil, emitField, beCount_eq_bigEndian, countSize,
      recordsOf]
  case enabledBody | disabledBody | addedBody | removedBody =>
    simp [emitHeader_none, Kind.subId, broadcastMuid, emitFields_cons, emitFields_nil, emitField, be16_eq_bigEndian]

/-! ## The gets -/

/-- Settles O17: the forms of each kind's messages, put together from its layout field by field. -/
theorem profileGetsDecodeTheMessage : Obligations.ProfileGetsDecodeTheMessage := by
  have profileLists : Forms (WireFields (layout .profileReply)) _ _ _ :=
    (forms_records .w16 5).cons (forms_records .w16 5).last
  have report : Forms (WireFields (layout .profileEnabledReport)) _ _ _ := (forms_bytes 5).cons forms_u16.last
  have specificData : Forms (WireFields (layout .profileSpecificData)) _ _ _ :=
    (forms_bytes 5).cons (forms_byteList .w32).last
  refine ⟨getRule_getOf (forms_headerOnly .profile rfl) (fun _ => .rfl) fun _ => rfl,
    getRule_getOf (forms_message .profileReply profileLists) (fun _ => .rfl) ?replyWire,
    getRule_getOf (forms_message .profileEnabledReport report) ?enabledValid ?enabledWire,
    getRule_getOf (forms_message .profileDisabledReport report) ?disabledValid ?disabledWire,
    getRule_getOf (forms_message .profileAdded (forms_bytes 5).last) (fun _ => .rfl) fun _ => rfl,
    getRule_getOf (forms_message .profileRemoved (forms_bytes 5).last) (fun _ => .rfl) fun _ => rfl,
    getRule_getOf (forms_message .profileSpecificData specificData) ?dataValid ?dataWire⟩
  case enabledValid | disabledValid => simp
  case dataValid => simp [countBits]
  case enabledWire | disabledWire => simp [Kind.subId]
  case replyWire | dataWire => simp [Kind.subId, countSize]

end Sys2Proof.Machine
end

section
/-! Proofs of the statements of spec/45_property_exchange.md: the classifiers, and the puts and gets of the two
capability kinds and of the six property data kinds, which share one layout each. -/

namespace Sys2Proof.Machine

/-! ## The classifiers -/

/-- Settles O23: each of the eight is the `is_` of its kind. -/
theorem propertyExchangePredicatesMatchTheHeader : Obligations.PropertyExchangePredicatesMatchTheHeader :=
  ⟨fun len => isRule_isOf len .propertyExchangeCapabilities,
    fun len => isRule_isOf len .propertyExchangeCapabilitiesReply, fun len => isRule_isOf len .getPropertyData,
    fun len => isRule_isOf len .getPropertyDataReply, fun len => isRule_isOf len .setPropertyData,
    fun len => isRule_isOf len .setPropertyDataReply, fun len => isRule_isOf len .subscription,
    fun len => isRule_isOf len .subscriptionReply⟩

/-! ## The puts -/

section Puts

variable {i : Instr} {k : Kind} {op : Half} {len : Word} {hdr : Header} {d : Word} {s : State}

/-- A put of the capability operands keeps the rule of its kind (R361, R365). -/
theorem putRule_capabilities {supportedCount major minor : Byte}
    (hexec : exec i s = putMessage k len hdr (some d) [.u8 supportedCount, .u8 major, .u8 minor] s)
    (hop : (encode i).op = op) :
    PutRule op 17 (hdr.source.toNat < 2 ^ 28 ∧ d.toNat < 2 ^ 28)
      (headerBytes k.subId hdr d ++ [supportedCount] ++ [major] ++ [minor]) i len s := by
  refine putRule_of_putMessage hexec hop rfl ?range ?body
  case range => simp [headerInRange_some, fieldInRange]
  case body => simp [emitHeader_some, emitFields_cons, emitFields_nil, emitField]

/-- A put of the property data operands keeps the rule of its kind (R369, R373, R377, R381, R385, R389). -/
theorem putRule_propertyData {requestId : Byte} {headerData : List Byte} {chunkCount nthChunk : Half}
    {propertyData : List Byte}
    (hexec : exec i s = putMessage k len hdr (some d) [.u8 requestId, .records .w16 (recordsOfBytes headerData),
      .u16 chunkCount, .u16 nthChunk, .records .w16 (recordsOfBytes propertyData)] s)
    (hop : (encode i).op = op) :
    PutRule op (23 + headerData.length + propertyData.length)
      (hdr.source.toNat < 2 ^ 28 ∧ d.toNat < 2 ^ 28 ∧ headerData.length < 2 ^ 16 ∧ propertyData.length < 2 ^ 16)
      (headerBytes k.subId hdr d ++ [requestId] ++ bigEndian 2 headerData.length ++ headerData ++
        bigEndian 2 chunkCount.toNat ++ bigEndian 2 nthChunk.toNat ++ bigEndian 2 propertyData.length ++ propertyData)
      i len s := by
  refine putRule_of_putMessage hexec hop ?length ?range ?body
  case length =>
    simp only [List.length_append, headerBytes_length, List.length_singleton, bigEndian_length]
    omega
  case range => simp [headerInRange_some, fieldInRange, countBits, and_assoc]
  case body =>
    simp [emitHeader_some, emitFields_cons, emitFields_nil, emitField, be16_eq_bigEndian, beCount_eq_bigEndian,
      countSize]

end Puts

/-- Settles O13: each of the eight is the generic put of its kind, with one of two lists of operands. -/
theorem propertyExchangePutsWriteTheMessage : Obligations.PropertyExchangePutsWriteTheMessage :=
  ⟨fun _ _ _ _ _ _ _ => putRule_capabilities (k := .propertyExchangeCapabilities) rfl rfl,
    fun _ _ _ _ _ _ _ => putRule_capabilities (k := .propertyExchangeCapabilitiesReply) rfl rfl,
    fun _ _ _ _ _ _ _ _ _ => putRule_propertyData (k := .getPropertyData) rfl rfl,
    fun _ _ _ _ _ _ _ _ _ => putRule_propertyData (k := .getPropertyDataReply) rfl rfl,
    fun _ _ _ _ _ _ _ _ _ => putRule_propertyData (k := .setPropertyData) rfl rfl,
    fun _ _ _ _ _ _ _ _ _ => putRule_propertyData (k := .setPropertyDataReply) rfl rfl,
    fun _ _ _ _ _ _ _ _ _ => putRule_propertyData (k := .subscription) rfl rfl,
    fun _ _ _ _ _ _ _ _ _ => putRule_propertyData (k := .subscriptionReply) rfl rfl⟩

/-! ## The gets -/

/-- A get of a kind with the capability layout keeps its rule (R362, R366). -/
theorem getRule_capabilities (k : Kind) (hk : layout k = layout .propertyExchangeCapabilities) (len : Word)
    (s : State) :
    GetRule (W := WireHeader × Byte × Byte × Byte) (opCode .get k.subId) (fun _ => True)
      (fun (w, supportedCount, major, minor) => w.bytes k.subId ++ [supportedCount] ++ [major] ++ [minor])
      (fun (w, supportedCount, major, minor) =>
        w.record [(.supportedCount, .u8 supportedCount), (.major, .u8 major), (.minor, .u8 minor)])
      (getOf len k) len s := by
  have payload : Forms (WireFields (layout .propertyExchangeCapabilities)) _ _ _ :=
    forms_u8.cons <| forms_u8.cons forms_u8.last
  rw [← hk] at payload
  refine getRule_getOf (forms_message k payload) ?valid ?wire len s
  case valid | wire => simp

/-- A get of a kind with the property data layout keeps its rule (R370, R374, R378, R382, R386, R390). -/
theorem getRule_propertyData (k : Kind) (hk : layout k = layout .getPropertyData) (len : Word) (s : State) :
    GetRule (W := WireHeader × Byte × List Byte × Half × Half × List Byte) (opCode .get k.subId)
      (fun (_, _, headerData, _, _, propertyData) => headerData.length < 2 ^ 16 ∧ propertyData.length < 2 ^ 16)
      (fun (w, requestId, headerData, chunkCount, nthChunk, propertyData) => w.bytes k.subId ++ [requestId] ++
        bigEndian 2 headerData.length ++ headerData ++ bigEndian 2 chunkCount.toNat ++ bigEndian 2 nthChunk.toNat ++
        bigEndian 2 propertyData.length ++ propertyData)
      (fun (w, requestId, headerData, chunkCount, nthChunk, propertyData) =>
        w.record [(.requestId, .u8 requestId), (.headerData, .records .w16 (headerData.map fun b => [b])),
          (.chunkCount, .u16 chunkCount), (.nthChunk, .u16 nthChunk),
          (.propertyData, .records .w16 (propertyData.map fun b => [b]))])
      (getOf len k) len s := by
  have payload : Forms (WireFields (layout .getPropertyData)) _ _ _ :=
    forms_u8.cons <| (forms_byteList .w16).cons <| forms_u16.cons <| forms_u16.cons (forms_byteList .w16).last
  rw [← hk] at payload
  refine getRule_getOf (forms_message k payload) ?valid ?wire len s
  case valid => simp [countBits]
  case wire => simp [countSize]

/-- Settles O18: each of the eight kinds has one of two layouts. -/
theorem propertyExchangeGetsDecodeTheMessage : Obligations.PropertyExchangeGetsDecodeTheMessage :=
  ⟨getRule_capabilities .propertyExchangeCapabilities rfl, getRule_capabilities .propertyExchangeCapabilitiesReply rfl,
    getRule_propertyData .getPropertyData rfl, getRule_propertyData .getPropertyDataReply rfl,
    getRule_propertyData .setPropertyData rfl, getRule_propertyData .setPropertyDataReply rfl,
    getRule_propertyData .subscription rfl, getRule_propertyData .subscriptionReply rfl⟩

end Sys2Proof.Machine
end

section
/-! Proofs of the statements of spec/46_process_inquiry.md: the classifiers, the puts and the gets of the five process
inquiry kinds, whose payloads are single bytes. -/

namespace Sys2Proof.Machine

/-! ## The classifiers -/

/-- Settles O24: each of the five is the `is_` of its kind. -/
theorem processInquiryPredicatesMatchTheHeader : Obligations.ProcessInquiryPredicatesMatchTheHeader :=
  ⟨fun len => isRule_isOf len .processCapabilities, fun len => isRule_isOf len .processCapabilitiesReply,
    fun len => isRule_isOf len .messageReport, fun len => isRule_isOf len .messageReportReply,
    fun len => isRule_isOf len .endOfMessageReport⟩

/-! ## The puts -/

/-- Settles O14: kind by kind, the ranges and the emitted bytes of the operands. -/
theorem processInquiryPutsWriteTheMessage : Obligations.ProcessInquiryPutsWriteTheMessage := by
  refine ⟨fun _ _ _ _ => putRule_of_putMessage (k := .processCapabilities) rfl rfl rfl ?capabilitiesRange rfl,
    fun _ _ _ _ _ => putRule_of_putMessage (k := .processCapabilitiesReply) rfl rfl rfl ?replyRange rfl,
    fun _ _ _ _ _ _ _ _ _ => putRule_of_putMessage (k := .messageReport) rfl rfl rfl ?reportRange rfl,
    fun _ _ _ _ _ _ _ _ => putRule_of_putMessage (k := .messageReportReply) rfl rfl rfl ?reportReplyRange rfl,
    fun _ _ _ _ => putRule_of_putMessage (k := .endOfMessageReport) rfl rfl rfl ?endRange rfl⟩
  case capabilitiesRange | endRange => simp [headerInRange_some]
  case replyRange | reportRange | reportReplyRange => simp [headerInRange_some, fieldInRange]

/-! ## The gets -/

/-- Settles O19: the forms of each kind's messages, put together from its layout field by field. -/
theorem processInquiryGetsDecodeTheMessage : Obligations.ProcessInquiryGetsDecodeTheMessage := by
  have reportReply : Forms (WireFields (layout .messageReportReply)) _ _ _ :=
    forms_u8.cons <| forms_u8.cons <| forms_u8.cons forms_u8.last
  have report : Forms (WireFields (layout .messageReport)) _ _ _ := forms_u8.cons reportReply
  refine ⟨getRule_getOf (forms_headerOnly .processCapabilities rfl) (fun _ => .rfl) fun _ => rfl,
    getRule_getOf (forms_message .processCapabilitiesReply forms_u8.last) (fun _ => .rfl) fun _ => rfl,
    getRule_getOf (forms_message .messageReport report) ?reportValid ?reportWire,
    getRule_getOf (forms_message .messageReportReply reportReply) ?reportReplyValid ?reportReplyWire,
    getRule_getOf (forms_headerOnly .endOfMessageReport rfl) (fun _ => .rfl) fun _ => rfl⟩
  case reportValid | reportReplyValid => simp
  case reportWire | reportReplyWire => simp [Kind.subId]

end Sys2Proof.Machine
end

section
/-! Proofs of the statements of spec/60_exceptions.md: every request completes, errors are precise and set the mark for
good, and which status an instruction ends with and why. -/

namespace Sys2Proof.Machine

/-! ## Every instruction completes -/

/-- The outcome is a next state: no fault and no refusal. -/
def Completes (o : Host.Outcome State Fault Refusal) : Prop := ∃ t, o = .next t

theorem completes_raise (e : Status) (s : State) : Completes (raise e s) := ⟨_, rfl⟩

theorem completes_respond (r : Response) (s : State) : Completes (respond r s) := ⟨_, rfl⟩

theorem completes_ite {c : Prop} [Decidable c] {o o' : Host.Outcome State Fault Refusal} (h : Completes o)
    (h' : Completes o') : Completes (if c then o else o') := by
  split
  · exact h
  · exact h'

theorem completes_getMessage (k : Kind) (len : Word) (s : State) : Completes (getMessage k len s) := by
  refine completes_ite (completes_raise ..) ?_
  split
  · exact completes_respond ..
  · exact completes_respond ..

/-- Every instruction answers a next state (R500). -/
theorem completes_exec (i : Instr) (s : State) : Completes (exec i s) := by
  rcases instr_shape i with ⟨len, k, rfl⟩ | ⟨len, k, rfl⟩ | ⟨len, a, k, rfl⟩ | rfl | ⟨m, rfl⟩ | rfl |
    ⟨p, m, rfl⟩ | ⟨p, rfl⟩
  · rw [exec_isOf]
    exact completes_ite (completes_raise ..) (completes_respond ..)
  · rw [exec_getOf]
    exact completes_getMessage k len s
  · rw [exec_putOf]
    exact completes_ite (completes_raise ..) <| completes_ite (completes_raise ..) <|
      completes_ite (completes_raise ..) (completes_respond ..)
  · exact completes_respond ..
  · exact completes_ite (completes_raise ..) (completes_respond ..)
  · exact completes_respond ..
  · exact completes_ite (completes_raise ..) <| completes_ite (completes_raise ..) (completes_respond ..)
  · exact completes_ite (completes_raise ..) (completes_respond ..)

/-! ## What every response has in common -/

section Leaves

variable {s t : State} {i : Instr} {st : Status}

theorem Leaves.status_held (h : Leaves s i t) : ∃ st, t.rsp.status = some st := by
  cases h with
  | error | flagged | parseFailed | got | put | muidDrawn | muidRead | muidWritten => exact ⟨_, rfl⟩

theorem Leaves.pending_eq (h : Leaves s i t) : t.pending = s.pending := by
  cases h with
  | error | flagged | parseFailed | got | put | muidDrawn | muidRead | muidWritten => rfl

theorem Leaves.cap_eq (h : Leaves s i t) : t.cap = s.cap := by
  cases h with
  | error | flagged | parseFailed | got | put | muidDrawn | muidRead | muidWritten => rfl

/-- An error status is left by the error state alone (R502). -/
theorem Leaves.eq_errorState (h : Leaves s i t) (hst : t.rsp.status = some st) (he : st.isError = true) :
    t = errorState s st := by
  cases h with
  | error => cases hst; rfl
  | flagged | parseFailed | got | put | muidDrawn | muidRead | muidWritten => cases hst; cases he

/-- The mark is set by the error statuses alone, and cleared by none (R507). -/
theorem Leaves.faultMark_eq (h : Leaves s i t) (hst : t.rsp.status = some st) :
    t.faultMark = (s.faultMark || st.isError) := by
  cases h with
  | error _ he =>
    cases hst
    rw [he, Bool.or_true]
    rfl
  | flagged | parseFailed | got | put | muidDrawn | muidRead | muidWritten =>
    cases hst
    exact (Bool.or_false _).symm

end Leaves

/-! ## Serving a request -/

section Request

variable {s t : State} {rest : List HostStep} {r : Request} (hp : s.pending = .request r :: rest)
include hp

/-- Serving a request is executing its instruction, or `ILLEGAL_REQUEST` when its code is not legal (R500, R506). -/
theorem step_request_cases :
    (¬ LegalCode r.op ∧ step s = .next (errorState (s.withPending rest) .illegalRequest)) ∨
    ∃ i t, decode r = .ok i ∧ step s = .next t ∧ exec i (s.withPending rest) = .next t := by
  by_cases hc : LegalCode r.op
  · obtain ⟨i, hi⟩ := exists_decodes hc
    obtain ⟨t, ht⟩ := completes_exec i (s.withPending rest)
    exact .inr ⟨i, t, hi.decode_eq, (step_request_legal hp hi.decode_eq).trans ht, ht⟩
  · obtain ⟨e, he⟩ := decode_error_of_not_legalCode hc
    exact .inl ⟨hc, step_request_illegal hp he⟩

/-- A request leaves one of the states an instruction can leave: an illegal code leaves an error state, as `Leaves`
has it of any instruction. -/
theorem leaves_of_step_request : ∃ i t, step s = .next t ∧ Leaves (s.withPending rest) i t := by
  rcases step_request_cases hp with ⟨_, hstep⟩ | ⟨i, t, _, hstep, ht⟩
  · exact ⟨.getMuid, _, hstep, .error _ rfl⟩
  · exact ⟨i, t, hstep, leaves_of_exec ht⟩

theorem leaves_of_step_request_next (ht : step s = .next t) : ∃ i, Leaves (s.withPending rest) i t := by
  obtain ⟨i, u, hu, hl⟩ := leaves_of_step_request hp
  obtain rfl : u = t := Host.Outcome.next.inj (hu.symm.trans ht)
  exact ⟨i, hl⟩

end Request

/-- Settles O40: each of the states a request can leave has a status, and the rest of the program and the capacity as
they were. -/
theorem everyRequestCompletesWithAStatus : Obligations.EveryRequestCompletesWithAStatus := by
  intro s rest r hp
  obtain ⟨i, t, ht, hl⟩ := leaves_of_step_request hp
  obtain ⟨st, hst⟩ := hl.status_held
  exact ⟨t, st, ht, hst, hl.pending_eq, hl.cap_eq⟩

/-- Settles O41: among the states a request can leave, an error status stands in the error state only. -/
theorem errorsArePrecise : Obligations.ErrorsArePrecise := by
  intro s t rest r st hp ht hst he
  obtain ⟨i, hl⟩ := leaves_of_step_request_next hp ht
  exact hl.eq_errorState hst he

/-! ## The fault mark -/

/-- No step clears the mark (R507), neither a request nor a step of the host's own. -/
theorem faultMark_of_step {s t : State} (ht : step s = .next t) (hm : s.faultMark = true) : t.faultMark = true := by
  cases hp : s.pending with
  | nil =>
    obtain rfl : s = t := Host.Outcome.next.inj ((step_idle hp).symm.trans ht)
    exact hm
  | cons hostStep rest =>
    have hm' : (s.withPending rest).faultMark = true := hm
    cases hostStep with
    | request r =>
      obtain ⟨i, hl⟩ := leaves_of_step_request_next hp ht
      obtain ⟨st, hst⟩ := hl.status_held
      rw [hl.faultMark_eq hst, hm', Bool.true_or]
    | write a bs =>
      obtain ⟨-, rfl⟩ := hostWrite_next ((step_write hp).symm.trans ht)
      exact hm'
    | read f =>
      rcases hostRead_next ((step_read hp).symm.trans ht) with rfl | rfl
      · exact hm'
      · rfl

theorem faultMark_of_run {s t : State} (h : Relation.ReflTransGen (fun u v => step u = .next v) s t)
    (hm : s.faultMark = true) : t.faultMark = true := by
  induction h with
  | refl => exact hm
  | tail _ hstep ih => exact faultMark_of_step hstep ih

/-- Settles O42: request by request for the mark an error sets, and along a run by induction on its steps. -/
theorem faultMarkIsSetByErrorsAndNeverCleared : Obligations.FaultMarkIsSetByErrorsAndNeverCleared := by
  refine ⟨fun s t rest r st hp ht hst => ?_, ⟨rfl, rfl, rfl, rfl, rfl⟩, fun s t h hm => ?_⟩
  · obtain ⟨i, hl⟩ := leaves_of_step_request_next hp ht
    exact hl.faultMark_eq hst
  · have hm' := faultMark_of_run h hm
    exact ⟨hm', fun hgood => Bool.false_ne_true (hgood.symm.trans hm')⟩

/-! ## From the status to its cause -/

/-- R505: the operands that raise `OVERFLOW_ERROR`. -/
def OverflowCause (i : Instr) : Prop :=
  (∃ len a k, i = putOf len a k ∧ PutOverflow k a) ∨
  (∃ m : Word, i = .putMuid m ∧ 2 ^ 28 ≤ m.toNat) ∨
  (∃ p m : Word, i = .putMuidWithPosition p m ∧ 2 ^ 28 ≤ m.toNat)

/-- R504: the lengths and positions that raise `CAPACITY_ERROR`. -/
def CapacityCause (i : Instr) (s : State) : Prop :=
  (∃ len k, (i = isOf len k ∨ i = getOf len k) ∧ s.cap.val < len.toNat) ∨
  (∃ len a k, i = putOf len a k ∧ (s.cap.val < len.toNat ∨ len.toNat < lengthOf k a)) ∨
  (∃ p, ((∃ m, i = .putMuidWithPosition p m) ∨ i = .getMuidWithPosition p) ∧ PositionOutside s p)

/-- `EndsFor i s st`: there is a cause for `i` to end with `st` in `s`; none for `ILLEGAL_REQUEST`. -/
inductive EndsFor (i : Instr) (s : State) : Status → Prop
  | ok : EndsFor i s .ok
  | parseError : EndsFor i s .parseError
  | overflow (h : OverflowCause i) : EndsFor i s .overflowError
  | capacity (h : CapacityCause i s) : EndsFor i s .capacityError

theorem lengthOf_eq_payload (k : Kind) (a : Args) :
    lengthOf k a = messageLength (14 + (emitFields ((payloadOperands a k).map Prod.snd)).length) := by
  rw [lengthOf, bodyOf, List.length_append, emitHeader_length]

theorem endsFor_of_putOf {len : Word} {a : Args} {k : Kind} {s t : State} {st : Status}
    (ht : exec (putOf len a k) s = .next t) (hst : t.rsp.status = some st) : EndsFor (putOf len a k) s st := by
  rw [exec_putOf] at ht
  rcases putMessage_next ht with ⟨rfl, hout⟩ | ⟨rfl, hfull⟩ | ⟨_, _, _, _, rfl⟩ <;> cases hst
  · exact .overflow (.inl ⟨len, a, k, rfl, not_not.mp (mt inRange_iff.mpr hout)⟩)
  · rw [← lengthOf_eq_payload] at hfull
    exact .capacity (.inr (.inl ⟨len, a, k, rfl, hfull⟩))
  · exact .ok

/-- Whatever an instruction ends with has its cause (R504, R505). -/
theorem endsFor_of_exec {i : Instr} {s t : State} {st : Status} (ht : exec i s = .next t)
    (hst : t.rsp.status = some st) : EndsFor i s st := by
  rcases instr_shape i with ⟨len, k, rfl⟩ | ⟨len, k, rfl⟩ | ⟨len, a, k, rfl⟩ | rfl | ⟨m, rfl⟩ | rfl |
    ⟨p, m, rfl⟩ | ⟨p, rfl⟩
  · rw [exec_isOf] at ht
    rcases isKind_next ht with ⟨hcap, rfl⟩ | ⟨_, rfl⟩ <;> cases hst
    · exact .capacity (.inl ⟨len, k, .inl rfl, hcap⟩)
    · exact .ok
  · rw [exec_getOf] at ht
    rcases getMessage_next ht with ⟨hcap, rfl⟩ | ⟨_, rfl, _⟩ | ⟨_, _, _, _, _, rfl⟩ <;> cases hst
    · exact .capacity (.inl ⟨len, k, .inr rfl, hcap⟩)
    · exact .parseError
    · exact .ok
  · exact endsFor_of_putOf ht hst
  · obtain rfl := generateMuid_next ht
    cases hst
    exact .ok
  · rcases putMuid_next ht with ⟨hm, rfl⟩ | ⟨_, rfl⟩ <;> cases hst
    · exact .overflow (.inr (.inl ⟨m, rfl, hm⟩))
    · exact .ok
  · obtain rfl := getMuid_next ht
    cases hst
    exact .ok
  · rcases putMuidWithPosition_next ht with ⟨hm, rfl⟩ | ⟨_, hout, rfl⟩ | ⟨_, _, rfl⟩ <;> cases hst
    · exact .overflow (.inr (.inr ⟨p, m, rfl, hm⟩))
    · exact .capacity (.inr (.inr ⟨p, .inl ⟨m, rfl⟩, hout⟩))
    · exact .ok
  · rcases getMuidWithPosition_next ht with ⟨hout, rfl⟩ | ⟨_, rfl⟩ <;> cases hst
    · exact .capacity (.inr (.inr ⟨p, .inr rfl, hout⟩))
    · exact .ok

/-- Settles O2: an instruction has no cause to end with `ILLEGAL_REQUEST`. -/
theorem illegalCodeRaisesIllegalRequest : Obligations.IllegalCodeRaisesIllegalRequest := by
  obtain ⟨-, -, hillegal⟩ := requestDecodingIsTotal
  refine fun s rest r hp => ⟨hillegal s rest r hp, fun hlegal t ht hst => ?_⟩
  obtain ⟨i, hi⟩ := exists_decodes hlegal
  rw [step_request_legal hp hi.decode_eq] at ht
  cases endsFor_of_exec ht hst

/-! ## From the cause to the status -/

theorem exec_isOf_outside {len : Word} {s : State} (h : s.cap.val < len.toNat) (k : Kind) :
    exec (isOf len k) s = .next (errorState s .capacityError) := by
  obtain ⟨hfull, -⟩ := isKind_outcome k len s
  rw [exec_isOf, hfull h]

theorem exec_getOf_outside {len : Word} {s : State} (h : s.cap.val < len.toNat) (k : Kind) :
    exec (getOf len k) s = .next (errorState s .capacityError) := by
  obtain ⟨hfull, -, -⟩ := getMessage_eq k len s
  rw [exec_getOf, hfull h]

theorem decodable_iff {s : State} {len : Word} {k : Kind} :
    Decodable s len k ↔ ∃ body r, WireMessage k body r ∧ MessageHeld s.mem len.toNat body := by
  rw [Decodable, Option.isSome_iff_exists]
  constructor
  · rintro ⟨⟨r, c⟩, h⟩
    obtain ⟨body, hw, hm, -⟩ := parseMessage_eq_some.mp h
    exact ⟨body, r, hw, hm⟩
  · rintro ⟨body, r, hw, hm⟩
    exact ⟨_, parseMessage_eq_some.mpr ⟨body, hw, hm, rfl⟩⟩

/-- The outcomes of R154 with the cause of R505 for the operand check. -/
theorem putOf_outcome (len : Word) (a : Args) (k : Kind) (s : State) :
    PutOutcome (¬ PutOverflow k a) len (bodyOf k a) s (exec (putOf len a k) s) := by
  rw [exec_putOf, ← inRange_iff]
  exact putMessage_outcome ..

/-- Each cause of R508, in its order, has its outcome: the status an instruction ends with is the one of the rule. -/
theorem statusRule_of_exec {i : Instr} {s t : State} {st : Status} (ht : exec i s = .next t)
    (hst : t.rsp.status = some st) : StatusRule i s st := by
  have ends {u : State} {e : Status} (hu : exec i s = .next u) (he : u.rsp.status = some e) : st = e := by
    obtain rfl : u = t := Host.Outcome.next.inj (hu.symm.trans ht)
    exact Option.some.inj (hst.symm.trans he)
  refine ⟨?is, ?get, ?put, ?generateMuid, ?putMuid, ?getMuid, ?putMuidWithPosition, ?getMuidWithPosition⟩
  case is =>
    rintro len k rfl
    exact ⟨fun h => ends (exec_isOf_outside h k) rfl, fun h => ends (exec_isOf_inside h k) rfl⟩
  case get =>
    rintro len k rfl
    refine ⟨fun h => ends (exec_getOf_outside h k) rfl, fun h hno => ?_, fun h hd => ?_⟩
    · exact ends (exec_getOf_not_held h fun body r hw hm => hno (decodable_iff.mpr ⟨body, r, hw, hm⟩)) rfl
    · obtain ⟨body, r, hw, hm⟩ := decodable_iff.mp hd
      exact ends (exec_getOf_held h hw hm) rfl
  case put =>
    rintro len a k rfl
    obtain ⟨hover, hfull, hdone⟩ := putOf_outcome len a k s
    refine ⟨fun h => ends (hover (not_not.mpr h)) rfl, fun hin h => ends (hfull hin (.inl h)) rfl,
      fun hin _ h => ends (hfull hin (.inr h)) rfl, fun hin hcap hlen => ?_⟩
    obtain ⟨u, hu, hput⟩ := hdone hin hcap hlen
    exact ends hu (by rw [hput.response])
  case generateMuid =>
    rintro rfl
    exact ends rfl rfl
  case putMuid =>
    rintro m rfl
    exact ⟨fun h => ends (exec_putMuid_overflow h s) rfl, fun h => ends (exec_putMuid h s) rfl⟩
  case getMuid =>
    rintro rfl
    exact ends (exec_getMuid s) rfl
  case putMuidWithPosition =>
    rintro p m rfl
    exact ⟨fun h => ends (exec_putMuidWithPosition_overflow h) rfl,
      fun h hout => ends (exec_putMuidWithPosition_outside h hout) rfl,
      fun h hin => ends (exec_putMuidWithPosition h hin) rfl⟩
  case getMuidWithPosition =>
    rintro p rfl
    exact ⟨fun hout => ends (exec_getMuidWithPosition_outside hout) rfl,
      fun hin => ends (exec_getMuidWithPosition hin) rfl⟩

/-- The rule looks at the memory and the capacity, not at the rest of the program. -/
theorem statusRule_withPending {i : Instr} {s : State} {rest : List HostStep} {st : Status} :
    StatusRule i (s.withPending rest) st ↔ StatusRule i s st := .rfl

/-- Settles O43: an illegal code is answered before anything is decoded, and an instruction keeps the rule. -/
theorem oneOutcomeInPriorityOrder : Obligations.OneOutcomeInPriorityOrder := by
  intro s rest r hp
  rcases step_request_cases hp with ⟨hc, hstep⟩ | ⟨i, t, hd, hstep, ht⟩
  · exact ⟨_, .illegalRequest, hstep, rfl, fun _ => rfl, fun i hd => absurd (legalCode_of_decode hd) hc⟩
  · obtain ⟨st, hst⟩ := (leaves_of_exec ht).status_held
    refine ⟨t, st, hstep, hst, fun hc => absurd (legalCode_of_decode hd) hc, fun j hj => ?_⟩
    obtain rfl : i = j := Except.ok.inj (hd.symm.trans hj)
    exact statusRule_withPending.mp (statusRule_of_exec ht hst)

/-! ## The causes of the two operand errors -/

theorem muidLegal_eq_false_iff {m : Word} : muidLegal m = false ↔ 2 ^ 28 ≤ m.toNat :=
  decide_eq_false_iff_not.trans Nat.not_lt

/-- The operands out of the ranges of R39 are those R505 names. -/
theorem wellFormed_eq_false_iff {i : Instr} : i.wellFormed = false ↔ OverflowCause i := by
  constructor
  · intro h
    rcases instr_shape i with ⟨len, k, rfl⟩ | ⟨len, k, rfl⟩ | ⟨len, a, k, rfl⟩ | rfl | ⟨m, rfl⟩ | rfl |
      ⟨p, m, rfl⟩ | ⟨p, rfl⟩
    · rw [wellFormed_isOf] at h
      cases h
    · rw [wellFormed_getOf] at h
      cases h
    · exact .inl ⟨len, a, k, rfl, by simpa [h] using wellFormed_putOf len a k⟩
    · cases h
    · exact .inr (.inl ⟨m, rfl, muidLegal_eq_false_iff.mp h⟩)
    · cases h
    · exact .inr (.inr ⟨p, m, rfl, muidLegal_eq_false_iff.mp h⟩)
    · cases h
  · rintro (⟨len, a, k, rfl, h⟩ | ⟨m, rfl, h⟩ | ⟨p, m, rfl, h⟩)
    · rw [← Bool.not_eq_true, wellFormed_putOf]
      exact not_not.mpr h
    · exact muidLegal_eq_false_iff.mpr h
    · exact muidLegal_eq_false_iff.mpr h

theorem status_overflow_iff {i : Instr} {s t : State} (ht : exec i s = .next t) :
    t.rsp.status = some .overflowError ↔ OverflowCause i := by
  constructor
  · intro hst
    cases endsFor_of_exec ht hst with
    | overflow h => exact h
  · obtain ⟨st, hst⟩ := (leaves_of_exec ht).status_held
    obtain ⟨-, -, hput, -, hmuid, -, hpos, -⟩ := statusRule_of_exec ht hst
    rw [hst]
    rintro (⟨len, a, k, rfl, h⟩ | ⟨m, rfl, h⟩ | ⟨p, m, rfl, h⟩)
    · obtain ⟨hover, -⟩ := hput len a k rfl
      rw [hover h]
    · obtain ⟨hover, -⟩ := hmuid m rfl
      rw [hover h]
    · obtain ⟨hover, -⟩ := hpos p m rfl
      rw [hover h]

/-- Settles O44: both sides are the causes of R505. -/
theorem overflowErrorCauses : Obligations.OverflowErrorCauses := fun _ _ _ ht =>
  ⟨(status_overflow_iff ht).trans wellFormed_eq_false_iff.symm, status_overflow_iff ht⟩

/-- Settles O45: with its operands in range, an instruction meets no cause before those of R504. -/
theorem capacityErrorCauses : Obligations.CapacityErrorCauses := by
  intro i s t hwf ht
  constructor
  · intro hst
    cases endsFor_of_exec ht hst with
    | capacity h => exact h
  · obtain ⟨st, hst⟩ := (leaves_of_exec ht).status_held
    obtain ⟨his, hget, hput, -, -, -, hpos, hgetpos⟩ := statusRule_of_exec ht hst
    rw [hst]
    rintro (⟨len, k, rfl | rfl, h⟩ | ⟨len, a, k, rfl, h⟩ | ⟨p, ⟨m, rfl⟩ | rfl, h⟩)
    · obtain ⟨hfull, -⟩ := his len k rfl
      rw [hfull h]
    · obtain ⟨hfull, -⟩ := hget len k rfl
      rw [hfull h]
    · have hin := (wellFormed_putOf len a k).mp hwf
      obtain ⟨-, hfull, hlong, -⟩ := hput len a k rfl
      rcases Nat.lt_or_ge s.cap.val len.toNat with hcap | hcap
      · rw [hfull hin hcap]
      · rw [hlong hin hcap (h.resolve_left (Nat.not_lt.mpr hcap))]
    · obtain ⟨-, hout, -⟩ := hpos p m rfl
      rw [hout (of_decide_eq_true hwf) h]
    · obtain ⟨hout, -⟩ := hgetpos p rfl
      rw [hout h]

end Sys2Proof.Machine
end

section
/-! Proofs of the statements of spec/70_reset_and_hazards.md: what a step serves, and the state after reset. -/

namespace Sys2Proof.Machine

theorem Response.unheld_holds (f : RspField) : Response.unheld.holds f = false := by
  cases f <;> rfl

theorem step_resetWith (cap : BufCap) (mem : Memory) :
    step (State.resetWith cap mem) = .next (State.resetWith cap mem) :=
  step_idle (State.resetWith_pending cap mem)

/-- Settles O1: the request is taken by `State.withPending`. -/
theorem stepServesTheDecodedRequest : Obligations.StepServesTheDecodedRequest :=
  fun _ _ _ _ hp hd => step_request_legal hp hd

/-- Settles O55: reset lists no host step, so the next step is idle. -/
theorem resetHoldsNoValueAndWaits : Obligations.ResetHoldsNoValueAndWaits := by
  refine ⟨fun cap mem => ⟨fun f => ?_, ?_, ?_, ?_, ?_, step_resetWith cap mem⟩, Config.resetCap, [], rfl⟩
  · rw [State.resetWith_rsp, Response.unheld_holds]
  · exact State.resetWith_faultMark cap mem
  · exact State.resetWith_pending cap mem
  · exact State.resetWith_mem cap mem
  · exact State.resetWith_cap cap mem

end Sys2Proof.Machine
end
